-- ==== Sys2Proof/Word.lean ====
section
/-! DEFINITION. The machine's one data type: the Word (spec/00_scope.md R6). The arithmetic on Words
is in Machine/Alu.lean. -/

namespace Sys2Proof

/-- A Word: an unsigned 16-bit value, bits numbered 15 down to 0 (R6). Registers, the pc, memory
cells, immediates and the elements of OUT are Words. -/
abbrev Word := BitVec 16

end Sys2Proof
end

