-- ==== Sys2Proof/Machine/Alu.lean ====
section
/-! DEFINITION. The operations of the ALU (spec/43_arithmetic_logic.md R119): 16 bits wide, modular, without
carry, overflow, saturation or trap. -/

namespace Sys2Proof.Machine

/-- `a +16 b` (R7, R110). -/
def aluAdd (a b : Word) : Word := a + b

/-- `a -16 b` (R7, R111). -/
def aluSub (a b : Word) : Word := a - b

/-- `0 -16 a` (R112). -/
def aluNeg (a : Word) : Word := 0#16 - a

/-- `~16 a` (R7, R117). -/
def aluNot (a : Word) : Word := ~~~a

/-- `a ^ b` (R113). -/
def aluXor (a b : Word) : Word := a ^^^ b

/-- `a & b` (R115). -/
def aluAnd (a b : Word) : Word := a &&& b

/-- `~16 (a & b)` (R114). -/
def aluNand (a b : Word) : Word := aluNot (aluAnd a b)

/-- `a | b` (R116). -/
def aluOr (a b : Word) : Word := a ||| b

end Sys2Proof.Machine
end

