-- ==== Sys2Proof/Config.lean ====
section
/-! DEFINITION. The configuration record of spec/00_scope.md R5: one field for each row of its table, with the
value this hardware takes as the default where the table has one. -/

namespace Sys2Proof

/-- The value of `CEILING` (R5, R17) in the standard parameters: the spec gives it no value and no default
(D6), so it has no body here and nothing can be proved of it. DESIGN CHOICE, safe: log 2. -/
opaque Config.ceiling : Nat

/-- An inclusive range of Words, from `lo` to `hi`. -/
structure CodeRange where
  lo : Word
  hi : Word
deriving DecidableEq, Repr

/-- The default of `ValidCodePoint`: the surrogates 0xD800 to 0xDFFF are invalid, every other Word is
valid (R144, D9). PRESUMED, unsafe: the spec takes this range from general knowledge (G1): log 3. -/
def Config.surrogates : CodeRange := { lo := 0xD800#16, hi := 0xDFFF#16 }

/-- The rows of R5 that a run reads: the constants with their defaults (U12, D15), and the parameters that the
spec leaves open. Supplied at reset and constant for the run (R10, R17, R193), so State carries them. -/
structure Params where
  /-- `XLEN`: the width of a Word. A shape row: the type Word has it built in (log 11). -/
  xlen : Nat := 16
  /-- `NREGS`: the number of general registers. A shape row: the type Reg has it built in (log 11). -/
  nregs : Nat := 8
  /-- `OPC_BITS`: the width of the opcode field. A shape row: the field's type has it built in (log 11). -/
  opcBits : Nat := 7
  /-- `NUM_OPCODES`: opcodes below this are defined, the others illegal (R58). A shape row: Instr has one
  constructor for each (log 11). -/
  numOpcodes : Nat := 20
  /-- `MEM_WORDS`: the number of memory cells. Every address is reduced modulo this (R30). -/
  memWords : Nat := 32768
  /-- `TRAP_ADDR`: the address of the trap-request cell. -/
  trapAddr : Word := 2000#16
  /-- `PAYLOAD_BASE`: the first cell of the string payload; a natural number, not a Word (R143). -/
  payloadBase : Nat := 2001
  /-- `TRAP_PRINT`: the request code of a string print. -/
  trapPrint : Word := 1#16
  /-- `RESULT_ADDR`: the conventional result slot; no instruction treats it specially. -/
  resultAddr : Word := 2046#16
  /-- `RESET_PC`: the pc after reset, and the load base of the image. -/
  resetPc : Word := 0#16
  /-- `CEILING`: the number of instructions a run may execute. Open, without a default (D6, log 2). -/
  ceiling : Nat
  /-- `ValidCodePoint` as plain data: the Words that lie in none of the ranges are valid, so every predicate
  on Words is one of its values (log 3). -/
  invalidCodePoints : List CodeRange := [Config.surrogates]
deriving DecidableEq, Repr

/-- The whole record of R5: the parameters a run reads, and `IMAGE`, the program image, open too, which is
consumed at reset and not held afterwards (R24, R180). -/
structure Configuration extends Params where
  image : List Word := []
deriving DecidableEq, Repr

/-- The parameters with every default of R5, and the opaque ceiling. -/
def Params.standard : Params := { ceiling := Config.ceiling }

/-- The configuration with every default of R5, the opaque ceiling, and the empty image (log 6). -/
def Configuration.standard : Configuration := { Params.standard with image := [] }

end Sys2Proof
end

