-- ==== Sys2Proof/Syntax.lean ====
section
/-! DEFINITION. The 20 instructions of the bbvm ISA (spec/30_encoding.md R57), one constructor per row
of spec/opcode_table.json, and the ten formats of R55. An instruction carries exactly the operands its
format uses: a field the format does not use is ignored by the hardware (R59). -/

namespace Sys2Proof

/-- A general register, r0 to r7. A 3-bit field names every one of them and nothing else, and none is
hard-wired (spec/10_state.md R11). -/
inductive Reg where
  | r0 | r1 | r2 | r3 | r4 | r5 | r6 | r7
deriving DecidableEq, Repr

/-- The formats of R55, named after the fields they use. -/
inductive Format where
  | N | DA | DAB | AB | A | DI | DAI | ABI | AI | I
deriving DecidableEq, Repr

/-- An instruction. Operands stand in the order of the source's table (R57, R62): `dest` is the field
written, `srcA` and `srcB` the fields read, `imm` the second word. -/
inductive Instr where
  /-- 0x00, format N; the source's second name for it is `nop` (R76, conflict C5). -/
  | halt
  /-- 0x01, format DA (R90). -/
  | mv (dest srcA : Reg)
  /-- 0x02, format DI (R91). -/
  | li (dest : Reg) (imm : Word)
  /-- 0x03, format DI (R100). -/
  | ldraw (dest : Reg) (imm : Word)
  /-- 0x04, format DA (R101). -/
  | ldind (dest srcA : Reg)
  /-- 0x05, format DAI (R102). -/
  | ldio (dest srcA : Reg) (imm : Word)
  /-- 0x06, format ABI: the address register first, the data register last (R103). -/
  | stio (srcA : Reg) (imm : Word) (srcB : Reg)
  /-- 0x07, format DAB (R110). -/
  | add (dest srcA srcB : Reg)
  /-- 0x08, format DAB (R111). -/
  | sub (dest srcA srcB : Reg)
  /-- 0x09, format DA (R112). -/
  | neg (dest srcA : Reg)
  /-- 0x0A, format DAB (R113). -/
  | xor (dest srcA srcB : Reg)
  /-- 0x0B, format DAB (R114). -/
  | nand (dest srcA srcB : Reg)
  /-- 0x0C, format DAB (R115). -/
  | and (dest srcA srcB : Reg)
  /-- 0x0D, format DAB (R116). -/
  | or (dest srcA srcB : Reg)
  /-- 0x0E, format DA (R117). -/
  | not (dest srcA : Reg)
  /-- 0x0F, format A (R130). -/
  | j (srcA : Reg)
  /-- 0x10, format AI (R131). -/
  | jnz (srcA : Reg) (imm : Word)
  /-- 0x11, format I (R132). -/
  | jimm (imm : Word)
  /-- 0x12, format DAI (R118). -/
  | addi (dest srcA : Reg) (imm : Word)
  /-- 0x13, format AB: the address register first, the data register last (R104). -/
  | st (srcA srcB : Reg)
deriving DecidableEq, Repr

end Sys2Proof
end

