-- ==== Sys2Proof/Machine/State.lean ====
section
/-! DEFINITION. The complete state of the machine (spec/10_state.md R10) with the parameters of its run,
the reasons a step can stop, and the state after reset (R22). -/

namespace Sys2Proof.Machine

/-- The register file: exactly 8 Words, none hard-wired, aliased or banked (R11). It is read and written
through `State.reg` and `State.setReg` of Machine/Ops.lean. -/
structure RegFile where
  r0 : Word
  r1 : Word
  r2 : Word
  r3 : Word
  r4 : Word
  r5 : Word
  r6 : Word
  r7 : Word
deriving DecidableEq, Repr

/-- The memory (R18) as (cell, Word) pairs. The Word is the smallest addressable unit: there are no
bytes (R33, log 1). A cell that is not listed holds 0: memory is zero at reset (R22). -/
structure Memory where
  cells : List (Nat × Word)
deriving DecidableEq, Repr

/-- The cells of a memory strictly rise from `low`, lie below `words`, and none lists the Word that an unlisted
cell reads as. -/
def cellsRise (words low : Nat) : List (Nat × Word) → Bool
  | [] => true
  | (cell, v) :: rest =>
    decide (low ≤ cell) && decide (cell < words) && (v != 0#16) && cellsRise words (cell + 1) rest

/-- The one canonical form of a memory of `words` cells: equal contents are equal data. -/
def Memory.wf (words : Nat) (m : Memory) : Bool := cellsRise words 0 m.cells

/-- The record of a fatal decode (R16): the 7-bit opcode that could not be dispatched, and the number of
instructions retired before it. -/
structure FatalRecord where
  opcode : BitVec 7
  completed : Nat
deriving DecidableEq, Repr

/-- The complete state (R10): `x` the registers (R11), `pc` (R12), `halt` the halt flag (R14), `ctr` the
instruction counter, unbounded (R15), `fatal` the fatal-decode latch (R16), `mem` the memory (R18), `out`
the output stream in emission order (R19). `params` is the model's: the run's parameters, which the
spec keeps beside the state (R10, R17, R5); no step changes them (log 2, log 3, log 8). -/
structure State where
  x : RegFile
  pc : Word
  halt : Bool
  ctr : Nat
  fatal : Option FatalRecord
  mem : Memory
  out : List Word
  params : Params
deriving DecidableEq, Repr

/-- Why a step can answer a fault. -/
inductive Fault where
  /-- The machine is stopped by the fatal decode that its latch records (R160, R195a). Raised by `step`
  on a state whose `fatal` is not `none`, never by an instruction. Safe: no instruction executes there
  by R73, and the state of R162 was answered by the step that raised the exception (log 4). -/
  | fatalDecode (opcode : BitVec 7) (completed : Nat)
deriving DecidableEq, Repr

/-- Why a step can answer a refusal. -/
inductive Refusal where
  /-- Raised by `exec` for an instruction that has no meaning yet. Safe. No instruction is left without
  one: the machine refuses nothing (R195c). -/
  | notModelled (mnemonic : String)
deriving DecidableEq, Repr

/-- The state after reset (R22): registers, pc and counter 0, not halted, no fatal decode, OUT empty, and
memory zero, the image being empty: no program is put into it (log 6, `State.boot` of Machine/Ops.lean
takes any configuration). The ceiling is open (D6, log 2). -/
def State.reset : State where
  x := { r0 := 0#16, r1 := 0#16, r2 := 0#16, r3 := 0#16, r4 := 0#16, r5 := 0#16, r6 := 0#16,
         r7 := 0#16 }
  pc := Params.standard.resetPc
  halt := false
  ctr := 0
  fatal := none
  mem := { cells := [] }
  out := []
  params := Params.standard

end Sys2Proof.Machine
end

