-- ==== Sys2Proof/Machine/Memory.lean ====
section
/-! DEFINITION. The memory array (spec/20_memory.md): reading and writing a cell, the reduction of an
address, and the load of an image at reset. Every cell exists, so nothing here can fail (R30, R31, R32). -/

namespace Sys2Proof.Machine

/-- The cell an address names: every access reduces it modulo `MEM_WORDS` (R30). -/
def cellOf (p : Params) (addr : Word) : Nat := addr.toNat % p.memWords

/-- The Word a list of cells holds at an index: 0 where none is listed (R22). -/
def lookupCell : List (Nat × Word) → Nat → Word
  | [], _ => 0#16
  | (cell, v) :: rest, i => if cell = i then v else lookupCell rest i

/-- A list of cells without those at an index. -/
def dropCell : List (Nat × Word) → Nat → List (Nat × Word)
  | [], _ => []
  | (cell, v) :: rest, i =>
    if cell = i then dropCell rest i else (cell, v) :: dropCell rest i

/-- A list of cells with one more, put before the first higher one. -/
def insertCell : List (Nat × Word) → Nat → Word → List (Nat × Word)
  | [], i, v => [(i, v)]
  | (cell, w) :: rest, i, v =>
    if i < cell then (i, v) :: (cell, w) :: rest else (cell, w) :: insertCell rest i v

/-- The Word in cell `i`. -/
def Memory.read (m : Memory) (i : Nat) : Word := lookupCell m.cells i

/-- The memory with `v` in cell `i`. Writing what an unlisted cell reads as removes the entry. -/
def Memory.write (m : Memory) (i : Nat) (v : Word) : Memory :=
  if v = 0#16 then { cells := dropCell m.cells i }
  else { cells := insertCell (dropCell m.cells i) i v }

/-- The load of R180 into a memory of `words` cells, from address `i` on: each word goes to the next address
modulo `MEM_WORDS`, in ascending order, so that the last writer of a cell wins (R181). -/
def Memory.load (words : Nat) (m : Memory) (i : Nat) : List Word → Memory
  | [] => m
  | w :: rest => (m.write (i % words) w).load words (i + 1) rest

end Sys2Proof.Machine
end

