-- ==== Sys2Proof/Machine/Ops.lean ====
section
/-! DEFINITION. The named operations over registers, memory, pc and counter that every meaning and the
sequencer use (spec/00_scope.md R7), reset with an image (R180), and the taking of the machine's one
exception (spec/60_exceptions.md R160). There is no return from it (R167). -/

namespace Sys2Proof.Machine

/-- `x[r]` (R7). -/
def State.reg (s : State) (r : Reg) : Word :=
  match r with
  | .r0 => s.x.r0
  | .r1 => s.x.r1
  | .r2 => s.x.r2
  | .r3 => s.x.r3
  | .r4 => s.x.r4
  | .r5 => s.x.r5
  | .r6 => s.x.r6
  | .r7 => s.x.r7

/-- The register file with `v` in register `r`. -/
def setRegFile (x : RegFile) (r : Reg) (v : Word) : RegFile :=
  match r with
  | .r0 => { x with r0 := v }
  | .r1 => { x with r1 := v }
  | .r2 => { x with r2 := v }
  | .r3 => { x with r3 := v }
  | .r4 => { x with r4 := v }
  | .r5 => { x with r5 := v }
  | .r6 => { x with r6 := v }
  | .r7 => { x with r7 := v }

/-- `x[r] <- v` (R7). No register is hard-wired: r0 is an ordinary one (R11). -/
def State.setReg (s : State) (r : Reg) (v : Word) : State := { s with x := setRegFile s.x r v }

/-- `MemRead(addr, 1)`: the Word in cell `addr mod MEM_WORDS`, without side effect, never failing (R31). -/
def State.memRead (s : State) (addr : Word) : Word := s.mem.read (cellOf s.params addr)

/-- `MemWrite(addr, 1, v)`: no address is read-only and none is special here; a write to the trap cell is
an ordinary write (R32, R106). -/
def State.memWrite (s : State) (addr v : Word) : State :=
  { s with mem := s.mem.write (cellOf s.params addr) v }

/-- `pc <- t`: all 16 bits are kept (R12, R133). -/
def State.setPc (s : State) (t : Word) : State := { s with pc := t }

/-- `pc <- pc +16 1` (R70 line 3, R12). -/
def State.advancePc (s : State) : State := s.setPc (s.pc + 1#16)

/-- `ctr <- ctr + 1` (R70 line 1, R15). -/
def State.countInstruction (s : State) : State := { s with ctr := s.ctr + 1 }

/-- `emit(c)` for each of a sequence of Words: appended to OUT in order (R7, R19). -/
def State.emit (s : State) (codes : List Word) : State := { s with out := s.out ++ codes }

/-- Line 5 of the step (R70, R72): a two-word instruction that did not write the pc moves it past its
immediate word. Every meaning ends here, with the length of its instruction and whether it wrote the pc. -/
def State.finish (s : State) (words : Nat) (wrotePc : Bool) : State :=
  if words = 2 ∧ wrotePc = false then s.advancePc else s

/-- `raise FatalDecode(opcode, completed)`: the latch is written and nothing else (R160, R16). There is no
vector, no saved pc, no saved status and no mode (R163). The counter and the pc keep what the step did to
them before the dispatch (R162). -/
def State.raiseFatalDecode (s : State) (opcode : BitVec 7) (completed : Nat) : State :=
  { s with fatal := some { opcode := opcode, completed := completed } }

/-- `reset(IMAGE, CEILING)` of R180, with all of the configuration that the host supplies at reset (R193, R5):
the pc and the load base are `RESET_PC`, and the image is consumed. -/
def State.boot (c : Configuration) : State :=
  { State.reset with
    pc := c.resetPc
    mem := State.reset.mem.load c.memWords c.resetPc.toNat c.image
    params := c.toParams }

end Sys2Proof.Machine
end

