-- ==== Sys2Proof/Machine/ArithmeticLogic.lean ====
section
/-! DEFINITION. The `execute` part of the nine ALU instructions (spec/43_arithmetic_logic.md). They write
their destination register and no flag (R119). -/

namespace Sys2Proof.Machine

/-- The shape of the three-register instructions: both operands read, the result written (R81c). -/
def State.alu3 (s : State) (op : Word → Word → Word) (dest srcA srcB : Reg) : State :=
  (s.setReg dest (op (s.reg srcA) (s.reg srcB))).finish 1 false

/-- The shape of the two-register instructions. -/
def State.alu2 (s : State) (op : Word → Word) (dest srcA : Reg) : State :=
  (s.setReg dest (op (s.reg srcA))).finish 1 false

/-- `add dst,srcA,srcB`: `x[dest] <- x[srcA] +16 x[srcB]` (R110). -/
def execAdd (dest srcA srcB : Reg) (s : State) : Host.Outcome State Fault Refusal :=
  .next (s.alu3 aluAdd dest srcA srcB)

/-- `sub dst,srcA,srcB`: `x[dest] <- x[srcA] -16 x[srcB]`, the minuend in `srcA` (R111). -/
def execSub (dest srcA srcB : Reg) (s : State) : Host.Outcome State Fault Refusal :=
  .next (s.alu3 aluSub dest srcA srcB)

/-- `neg dst,srcA`: `x[dest] <- 0 -16 x[srcA]` (R112). -/
def execNeg (dest srcA : Reg) (s : State) : Host.Outcome State Fault Refusal :=
  .next (s.alu2 aluNeg dest srcA)

/-- `xor dst,srcA,srcB`: bitwise exclusive or (R113). -/
def execXor (dest srcA srcB : Reg) (s : State) : Host.Outcome State Fault Refusal :=
  .next (s.alu3 aluXor dest srcA srcB)

/-- `nand dst,srcA,srcB`: the complement of the bitwise and (R114). -/
def execNand (dest srcA srcB : Reg) (s : State) : Host.Outcome State Fault Refusal :=
  .next (s.alu3 aluNand dest srcA srcB)

/-- `and dst,srcA,srcB`: bitwise and (R115). -/
def execAnd (dest srcA srcB : Reg) (s : State) : Host.Outcome State Fault Refusal :=
  .next (s.alu3 aluAnd dest srcA srcB)

/-- `or dst,srcA,srcB`: bitwise or (R116). -/
def execOr (dest srcA srcB : Reg) (s : State) : Host.Outcome State Fault Refusal :=
  .next (s.alu3 aluOr dest srcA srcB)

/-- `not dst,srcA`: bitwise complement (R117). -/
def execNot (dest srcA : Reg) (s : State) : Host.Outcome State Fault Refusal :=
  .next (s.alu2 aluNot dest srcA)

/-- `addi dst,srcA,imm`: `x[dest] <- x[srcA] +16 imm`, the immediate a full Word (R118). -/
def execAddi (dest srcA : Reg) (imm : Word) (s : State) : Host.Outcome State Fault Refusal :=
  .next ((s.setReg dest (aluAdd (s.reg srcA) imm)).finish 2 false)

end Sys2Proof.Machine
end

