-- ==== Sys2Proof/Machine/Flags.lean ====
section
/-! DEFINITION. The machine's flags. There are no condition codes and no arithmetic instruction writes a
flag (spec/10_state.md R13): the one status bit is the halt flag (R14), and the one condition a jump can
test is a register against zero (R131). -/

namespace Sys2Proof.Machine

/-- `halt <- true` (R7, R14). -/
def State.setHalt (s : State) : State := { s with halt := true }

/-- The condition of jnz: true for every value from 1 to 0xFFFF (R131). -/
def isNonZero (v : Word) : Bool := v != 0#16

end Sys2Proof.Machine
end

