-- ==== Sys2Proof/Machine/ControlTransfer.lean ====
section
/-! DEFINITION. The `execute` part of the three jumps (spec/44_control_transfer.md). A target is absolute and
is written whole, bit 15 included; a written target is never incremented afterwards (R133). -/

namespace Sys2Proof.Machine

/-- `j srcA`: `pc <- x[srcA] ; wrote_pc = true` (R130). -/
def execJ (srcA : Reg) (s : State) : Host.Outcome State Fault Refusal :=
  .next ((s.setPc (s.reg srcA)).finish 1 true)

/-- `jnz srcA,imm`: `pc <- imm` if `x[srcA]` is not zero; otherwise the pc moves past the immediate word,
as for any two-word instruction that did not write it (R131, the reading conflict C1 settles: log 9). -/
def execJnz (srcA : Reg) (imm : Word) (s : State) : Host.Outcome State Fault Refusal :=
  if isNonZero (s.reg srcA) then .next ((s.setPc imm).finish 2 true) else .next (s.finish 2 false)

/-- `jimm imm`: `pc <- imm ; wrote_pc = true` (R132). -/
def execJimm (imm : Word) (s : State) : Host.Outcome State Fault Refusal :=
  .next ((s.setPc imm).finish 2 true)

end Sys2Proof.Machine
end

