-- ==== Sys2Proof/Machine/DataMovement.lean ====
section
/-! DEFINITION. The `execute` part of mv and li (spec/41_data_movement.md). -/

namespace Sys2Proof.Machine

/-- `mv dst,srcA`: `x[dest] <- x[srcA]` (R90). -/
def execMv (dest srcA : Reg) (s : State) : Host.Outcome State Fault Refusal :=
  .next ((s.setReg dest (s.reg srcA)).finish 1 false)

/-- `li dst,imm`: `x[dest] <- imm`, the Word taken whole (R91). -/
def execLi (dest : Reg) (imm : Word) (s : State) : Host.Outcome State Fault Refusal :=
  .next ((s.setReg dest imm).finish 2 false)

end Sys2Proof.Machine
end

