-- ==== Sys2Proof/Machine/Operands.lean ====
section
/-! DEFINITION. The addressing modes for data (spec/42_load_store.md R105). Each gives an effective
address, a Word; the memory primitive reduces it. No mode changes the base register. -/

namespace Sys2Proof.Machine

/-- Absolute: the immediate is the address (R105). -/
def State.eaAbsolute (_s : State) (imm : Word) : Word := imm

/-- Register indirect: the address is in `srcA` (R105). -/
def State.eaIndirect (s : State) (srcA : Reg) : Word := s.reg srcA

/-- Register plus offset: the sum is Word arithmetic and wraps modulo 2^16 (R105, R30). -/
def State.eaOffset (s : State) (srcA : Reg) (imm : Word) : Word := s.reg srcA + imm

end Sys2Proof.Machine
end

