-- ==== Sys2Proof/Machine/LoadStore.lean ====
section
/-! DEFINITION. The `execute` part of the loads and stores (spec/42_load_store.md). The address is read
before the destination is written (R81c). A store to the trap cell is a plain store here: the trap
service that ends the step acts on it (R106). -/

namespace Sys2Proof.Machine

/-- `ldraw dst,imm`: `x[dest] <- MemRead(imm, 1)` (R100). -/
def execLdraw (dest : Reg) (imm : Word) (s : State) : Host.Outcome State Fault Refusal :=
  .next ((s.setReg dest (s.memRead (s.eaAbsolute imm))).finish 2 false)

/-- `ldind dst,srcA`: `x[dest] <- MemRead(x[srcA], 1)` (R101). -/
def execLdind (dest srcA : Reg) (s : State) : Host.Outcome State Fault Refusal :=
  .next ((s.setReg dest (s.memRead (s.eaIndirect srcA))).finish 1 false)

/-- `ldio dst,srcA,imm`: `x[dest] <- MemRead(x[srcA] +16 imm, 1)` (R102). -/
def execLdio (dest srcA : Reg) (imm : Word) (s : State) : Host.Outcome State Fault Refusal :=
  .next ((s.setReg dest (s.memRead (s.eaOffset srcA imm))).finish 2 false)

/-- `stio srcA,imm,srcB`: `MemWrite(x[srcA] +16 imm, 1, x[srcB])` (R103). -/
def execStio (srcA : Reg) (imm : Word) (srcB : Reg) (s : State) :
    Host.Outcome State Fault Refusal :=
  .next ((s.memWrite (s.eaOffset srcA imm) (s.reg srcB)).finish 2 false)

/-- `st srcA,srcB`: `MemWrite(x[srcA], 1, x[srcB])` (R104). -/
def execSt (srcA srcB : Reg) (s : State) : Host.Outcome State Fault Refusal :=
  .next ((s.memWrite (s.eaIndirect srcA) (s.reg srcB)).finish 1 false)

end Sys2Proof.Machine
end

