-- ==== Sys2Proof/Machine/System.lean ====
section
/-! DEFINITION. The `execute` part of halt, the machine's only system instruction
(spec/40_sequencer.md R76, R82). -/

namespace Sys2Proof.Machine

/-- `halt`: `halt <- true ; wrote_pc = false` (R76). -/
def execHalt (s : State) : Host.Outcome State Fault Refusal :=
  .next (s.setHalt.finish 1 false)

end Sys2Proof.Machine
end

