-- ==== Sys2Proof/Machine/Dispatch.lean ====
section
/-! DEFINITION. The dispatch to the 20 meanings (spec/40_sequencer.md R70 lines 4 and 5, R75): each is the
instruction's `execute` and the second pc advance it leads to, on the state after line 3 of the step (log 10). -/

namespace Sys2Proof.Machine

def exec (i : Instr) (s : State) : Host.Outcome State Fault Refusal :=
  match i with
  | .halt => Sys2Proof.Machine.execHalt s
  | .mv d a => Sys2Proof.Machine.execMv d a s
  | .li d imm => Sys2Proof.Machine.execLi d imm s
  | .ldraw d imm => Sys2Proof.Machine.execLdraw d imm s
  | .ldind d a => Sys2Proof.Machine.execLdind d a s
  | .ldio d a imm => Sys2Proof.Machine.execLdio d a imm s
  | .stio a imm b => Sys2Proof.Machine.execStio a imm b s
  | .add d a b => Sys2Proof.Machine.execAdd d a b s
  | .sub d a b => Sys2Proof.Machine.execSub d a b s
  | .neg d a => Sys2Proof.Machine.execNeg d a s
  | .xor d a b => Sys2Proof.Machine.execXor d a b s
  | .nand d a b => Sys2Proof.Machine.execNand d a b s
  | .and d a b => Sys2Proof.Machine.execAnd d a b s
  | .or d a b => Sys2Proof.Machine.execOr d a b s
  | .not d a => Sys2Proof.Machine.execNot d a s
  | .j a => Sys2Proof.Machine.execJ a s
  | .jnz a imm => Sys2Proof.Machine.execJnz a imm s
  | .jimm imm => Sys2Proof.Machine.execJimm imm s
  | .addi d a imm => Sys2Proof.Machine.execAddi d a imm s
  | .st a b => Sys2Proof.Machine.execSt a b s

end Sys2Proof.Machine
end

