-- ==== Sys2Proof/WellFormed.lean ====
section
/-! DEFINITION. Well-formedness. Every term of `Instr` is well formed by its types: a register operand
is one of the eight (R11) and an immediate is a Word (R53), so there is no check to make on it. What can
be ill formed is a word that is to be dispatched (R58), a configuration (R5), and an image that is to be
launched (R194). -/

namespace Sys2Proof

/-- The opcode is one of the `NUM_OPCODES` that are defined; 0x14 to 0x7F are illegal (R57, R58). -/
def legalOpcode (p : Params) (op : BitVec 7) : Bool := op.toNat < p.numOpcodes

/-- The parameters fit the model: the shape rows have the values that the types of the model have built in
(log 11), and there is a memory cell. Every other row of R5 may take any value. -/
def Params.fits (p : Params) : Bool :=
  p.xlen == 16 && p.nregs == 8 && p.opcBits == 7 && p.numOpcodes == 20 && decide (0 < p.memWords)

/-- The caller's duty on the length of an image (R181). A longer image is defined behaviour all the
same (it wraps), and the model runs it: this is the launch premise (b) of R194, for claims to name. -/
def imageFits (c : Configuration) : Bool := c.image.length ≤ c.memWords

/-- The image leaves the trap cell at zero: the launch premise (c) of R194, `IMAGE[2000] = 0`. The word of the
image that lands on the trap cell is numbered from the load base. -/
def imageLeavesTrapCell (c : Configuration) : Bool :=
  c.image.getD ((c.trapAddr - c.resetPc).toNat % c.memWords) 0#16 == 0#16

end Sys2Proof
end

