-- ==== Sys2Proof/Decode.lean ====
section
/-! DEFINITION. The decoder and the encoder (spec/30_encoding.md). Decoding is pure and total (R52): it
accepts every pair of words and answers an instruction, or rejects the opcode by name (R58, R75). -/

namespace Sys2Proof

/-- The 3-bit field that names a register. -/
def Reg.field : Reg → BitVec 3
  | .r0 => 0#3
  | .r1 => 1#3
  | .r2 => 2#3
  | .r3 => 3#3
  | .r4 => 4#3
  | .r5 => 5#3
  | .r6 => 6#3
  | .r7 => 7#3

/-- The register a 3-bit field names: every value names one, so no index is out of range (R11, R52). -/
def regOfField (f : BitVec 3) : Reg :=
  match f.toNat with
  | 0 => .r0
  | 1 => .r1
  | 2 => .r2
  | 3 => .r3
  | 4 => .r4
  | 5 => .r5
  | 6 => .r6
  | _ => .r7

/-- Bits 15 to 9 of the instruction word (R51). -/
def opcodeField (w : Word) : BitVec 7 := w.extractLsb' 9 7

/-- Bits 8 to 6 of the instruction word (R51). -/
def srcAField (w : Word) : BitVec 3 := w.extractLsb' 6 3

/-- Bits 5 to 3 of the instruction word (R51). -/
def srcBField (w : Word) : BitVec 3 := w.extractLsb' 3 3

/-- Bits 2 to 0 of the instruction word (R51). -/
def destField (w : Word) : BitVec 3 := w.extractLsb' 0 3

/-- `encode(opcode, srcA, srcB, dest)` of R65: the instruction word with these four fields. -/
def packWord (opcode : BitVec 7) (srcA srcB dest : BitVec 3) : Word :=
  (opcode.setWidth 16 <<< 9) ||| (srcA.setWidth 16 <<< 6) ||| (srcB.setWidth 16 <<< 3)
    ||| dest.setWidth 16

/-- The five numbers the decoder computes (R52). The immediate is the whole second word, whatever the
opcode (R50, R53). -/
structure Fields where
  opcode : BitVec 7
  srcA : BitVec 3
  srcB : BitVec 3
  dest : BitVec 3
  imm : Word
deriving DecidableEq, Repr

/-- `decode(M, pc)` of R52 on the two words it reads: extraction of the fields, no validation. -/
def fieldsOf (w imm : Word) : Fields :=
  { opcode := opcodeField w, srcA := srcAField w, srcB := srcBField w, dest := destField w,
    imm := imm }

/-- Why a pair of words is no instruction: its opcode is undefined (R58). There is no other reason. -/
inductive DecodeError where
  | illegalOpcode (opcode : BitVec 7)
deriving DecidableEq, Repr

/-- The dispatch on the opcode: the map of R57, with the explicit total fallback of R75. Only the fields
an instruction's format uses are read (R59). -/
def decodeFields (f : Fields) : Except DecodeError Instr :=
  let a := regOfField f.srcA
  let b := regOfField f.srcB
  let d := regOfField f.dest
  match f.opcode.toNat with
  | 0x00 => .ok .halt
  | 0x01 => .ok (.mv d a)
  | 0x02 => .ok (.li d f.imm)
  | 0x03 => .ok (.ldraw d f.imm)
  | 0x04 => .ok (.ldind d a)
  | 0x05 => .ok (.ldio d a f.imm)
  | 0x06 => .ok (.stio a f.imm b)
  | 0x07 => .ok (.add d a b)
  | 0x08 => .ok (.sub d a b)
  | 0x09 => .ok (.neg d a)
  | 0x0A => .ok (.xor d a b)
  | 0x0B => .ok (.nand d a b)
  | 0x0C => .ok (.and d a b)
  | 0x0D => .ok (.or d a b)
  | 0x0E => .ok (.not d a)
  | 0x0F => .ok (.j a)
  | 0x10 => .ok (.jnz a f.imm)
  | 0x11 => .ok (.jimm f.imm)
  | 0x12 => .ok (.addi d a f.imm)
  | 0x13 => .ok (.st a b)
  | _ => .error (.illegalOpcode f.opcode)

/-- The instruction whose instruction word is `w` and whose following word is `imm`. -/
def decode (w imm : Word) : Except DecodeError Instr := decodeFields (fieldsOf w imm)

/-- The format of an instruction (R55). -/
def Instr.format : Instr → Format
  | .halt => .N
  | .mv _ _ => .DA
  | .li _ _ => .DI
  | .ldraw _ _ => .DI
  | .ldind _ _ => .DA
  | .ldio _ _ _ => .DAI
  | .stio _ _ _ => .ABI
  | .add _ _ _ => .DAB
  | .sub _ _ _ => .DAB
  | .neg _ _ => .DA
  | .xor _ _ _ => .DAB
  | .nand _ _ _ => .DAB
  | .and _ _ _ => .DAB
  | .or _ _ _ => .DAB
  | .not _ _ => .DA
  | .j _ => .A
  | .jnz _ _ => .AI
  | .jimm _ => .I
  | .addi _ _ _ => .DAI
  | .st _ _ => .AB

/-- The words an instruction of a format takes: two when the format uses the immediate (R55, R56). -/
def Format.words : Format → Nat
  | .N | .DA | .DAB | .AB | .A => 1
  | .DI | .DAI | .ABI | .AI | .I => 2

/-- The length of an instruction in words: a function of its opcode alone (R56). -/
def Instr.words (i : Instr) : Nat := i.format.words

/-- The bits of the instruction word that a format reads: the opcode and the fields it uses. The other
bits are the `x` of the table's `encoding` strings (R55, R66). -/
def Format.usedBits : Format → Word
  | .N => 0b1111111000000000#16
  | .DA => 0b1111111111000111#16
  | .DAB => 0b1111111111111111#16
  | .AB => 0b1111111111111000#16
  | .A => 0b1111111111000000#16
  | .DI => 0b1111111000000111#16
  | .DAI => 0b1111111111000111#16
  | .ABI => 0b1111111111111000#16
  | .AI => 0b1111111111000000#16
  | .I => 0b1111111000000000#16

/-- The canonical instruction word: the opcode of R57, the operands in their fields, and zero in every
field the format does not use (R59). -/
def encodeWord : Instr → Word
  | .halt => packWord 0x00#7 0#3 0#3 0#3
  | .mv d a => packWord 0x01#7 a.field 0#3 d.field
  | .li d _ => packWord 0x02#7 0#3 0#3 d.field
  | .ldraw d _ => packWord 0x03#7 0#3 0#3 d.field
  | .ldind d a => packWord 0x04#7 a.field 0#3 d.field
  | .ldio d a _ => packWord 0x05#7 a.field 0#3 d.field
  | .stio a _ b => packWord 0x06#7 a.field b.field 0#3
  | .add d a b => packWord 0x07#7 a.field b.field d.field
  | .sub d a b => packWord 0x08#7 a.field b.field d.field
  | .neg d a => packWord 0x09#7 a.field 0#3 d.field
  | .xor d a b => packWord 0x0A#7 a.field b.field d.field
  | .nand d a b => packWord 0x0B#7 a.field b.field d.field
  | .and d a b => packWord 0x0C#7 a.field b.field d.field
  | .or d a b => packWord 0x0D#7 a.field b.field d.field
  | .not d a => packWord 0x0E#7 a.field 0#3 d.field
  | .j a => packWord 0x0F#7 a.field 0#3 0#3
  | .jnz a _ => packWord 0x10#7 a.field 0#3 0#3
  | .jimm _ => packWord 0x11#7 0#3 0#3 0#3
  | .addi d a _ => packWord 0x12#7 a.field 0#3 d.field
  | .st a b => packWord 0x13#7 a.field b.field 0#3

/-- The immediate word of a two-word instruction; a one-word instruction has none (R50, R53). -/
def Instr.immediate : Instr → Option Word
  | .li _ imm | .ldraw _ imm | .ldio _ _ imm | .stio _ imm _ | .jnz _ imm | .jimm imm
  | .addi _ _ imm => some imm
  | .halt | .mv _ _ | .ldind _ _ | .add _ _ _ | .sub _ _ _ | .neg _ _ | .xor _ _ _
  | .nand _ _ _ | .and _ _ _ | .or _ _ _ | .not _ _ | .j _ | .st _ _ => none

/-- The words of an instruction in memory order: the instruction word at the lower address (R33). -/
def encode (i : Instr) : List Word := encodeWord i :: i.immediate.toList

/-- The word numbered `k` of an instruction of `nbits` bits that spec/opcode_table.json writes as the
number `w` (bit 0 the least significant bit of the first word); the bits from `nbits` up are zero. -/
def tableWord (nbits w k : Nat) : Word := BitVec.ofNat 16 (w % 2 ^ nbits / 65536 ^ k)

/-- The instruction the decoder reads from the bits `w` of a row of spec/opcode_table.json. A Word is
stored whole in one cell, the instruction word first, so there is no byte order to lay out (R33). -/
def decodeTableWord (nbits w : Nat) : Option Instr :=
  (decode (tableWord nbits w 0) (tableWord nbits w 1)).toOption

/-- The mnemonic of an instruction, as the source's table spells it (R57, R62). -/
def Instr.mnemonic : Instr → String
  | .halt => "halt"
  | .mv _ _ => "mv"
  | .li _ _ => "li"
  | .ldraw _ _ => "ldraw"
  | .ldind _ _ => "ldind"
  | .ldio _ _ _ => "ldio"
  | .stio _ _ _ => "stio"
  | .add _ _ _ => "add"
  | .sub _ _ _ => "sub"
  | .neg _ _ => "neg"
  | .xor _ _ _ => "xor"
  | .nand _ _ _ => "nand"
  | .and _ _ _ => "and"
  | .or _ _ _ => "or"
  | .not _ _ => "not"
  | .j _ => "j"
  | .jnz _ _ => "jnz"
  | .jimm _ => "jimm"
  | .addi _ _ _ => "addi"
  | .st _ _ => "st"

/-- An operand as the notation of R62 lists it. -/
inductive Operand where
  | reg (r : Reg)
  | imm (v : Word)
deriving DecidableEq, Repr

/-- The operands in the order of the source's table: stio and st list the address register first and
the data register last (R62). -/
def Instr.operands : Instr → List Operand
  | .halt => []
  | .mv d a => [.reg d, .reg a]
  | .li d imm => [.reg d, .imm imm]
  | .ldraw d imm => [.reg d, .imm imm]
  | .ldind d a => [.reg d, .reg a]
  | .ldio d a imm => [.reg d, .reg a, .imm imm]
  | .stio a imm b => [.reg a, .imm imm, .reg b]
  | .add d a b => [.reg d, .reg a, .reg b]
  | .sub d a b => [.reg d, .reg a, .reg b]
  | .neg d a => [.reg d, .reg a]
  | .xor d a b => [.reg d, .reg a, .reg b]
  | .nand d a b => [.reg d, .reg a, .reg b]
  | .and d a b => [.reg d, .reg a, .reg b]
  | .or d a b => [.reg d, .reg a, .reg b]
  | .not d a => [.reg d, .reg a]
  | .j a => [.reg a]
  | .jnz a imm => [.reg a, .imm imm]
  | .jimm imm => [.imm imm]
  | .addi d a imm => [.reg d, .reg a, .imm imm]
  | .st a b => [.reg a, .reg b]

end Sys2Proof
end

