-- ==== Sys2Proof/Machine/Fetch.lean ====
section
/-! DEFINITION. The fetch (spec/40_sequencer.md R71, spec/30_encoding.md R52, R54), and the placing of one
instruction where the next fetch reads it. -/

namespace Sys2Proof.Machine

/-- The instruction word: the Word the pc addresses (R71). -/
def State.fetchWord (s : State) : Word := s.memRead s.pc

/-- The immediate: the Word at `pc +16 1`, read at every step whatever the opcode (R50, R54, R71). -/
def State.fetchImm (s : State) : Word := s.memRead (s.pc + 1#16)

/-- The instruction at the pc, or the rejection of its opcode (R52, R75). Fetched anew from memory at
every step, so a store is seen by the next fetch (R42). -/
def State.fetchDecode (s : State) : Except DecodeError Instr := decode s.fetchWord s.fetchImm

/-- The two words of an instruction of spec/opcode_table.json stored at the pc, in a machine that takes
its next step: not halted, no fatal decode, and the ceiling one above the counter (R73). It stands for
the load of a program from outside the machine (log 6). -/
def State.placeInstruction (s : State) (nbits w : Nat) : State :=
  let t := (s.memWrite s.pc (tableWord nbits w 0)).memWrite (s.pc + 1#16) (tableWord nbits w 1)
  { t with halt := false, fatal := none, params := { t.params with ceiling := t.ctr + 1 } }

end Sys2Proof.Machine
end

