-- ==== Sys2Proof/Machine/TrapService.lean ====
section
/-! DEFINITION. The trap service (spec/45_trap_service.md): the last action of every step that ends in no
fatal decode, and the machine's only output. Its whole behaviour is R141 to R146. -/

namespace Sys2Proof.Machine

/-- A range of Words holds `c`. -/
def inRange (r : CodeRange) (c : Word) : Bool := decide (r.lo ≤ c) && decide (c ≤ r.hi)

/-- `ValidCodePoint(c)`: `c` lies in no range that the run's parameters call invalid (R144, log 3). -/
def validCodePoint (p : Params) (c : Word) : Bool :=
  !(p.invalidCodePoints.any fun r => inRange r c)

/-- The codes `print_string` emits (R143) from cell `a` on, with at most `fuel` cells to read: it stops
before a zero and before an invalid code point. -/
def scanString (m : Memory) (p : Params) : (fuel : Nat) → (a : Nat) → List Word
  | 0, _ => []
  | fuel + 1, a =>
    let c := m.read a
    if c = 0#16 then []
    else if validCodePoint p c then c :: scanString m p fuel (a + 1)
    else []

/-- The codes of one print request: the scan ascends from `PAYLOAD_BASE` to the last cell and does
not wrap (R143, D20). -/
def printString (m : Memory) (p : Params) : List Word :=
  scanString m p (p.memWords - p.payloadBase) p.payloadBase

/-- What the service emits for request code `t`: the string for `TRAP_PRINT`, nothing for any other
(R141, R145). -/
def serviceOutput (m : Memory) (p : Params) (t : Word) : List Word :=
  if t = p.trapPrint then printString m p else []

/-- `trap_service()` of R141: no request, nothing; otherwise act on the code, and clear the cell whatever
the code was and however the print went (R146). -/
def State.trapService (s : State) : State :=
  let t := s.memRead s.params.trapAddr
  if t = 0#16 then s
  else (s.emit (serviceOutput s.mem s.params t)).memWrite s.params.trapAddr 0#16

end Sys2Proof.Machine
end

