-- ==== Sys2Proof/Machine/Sequencer.lean ====
section
/-! DEFINITION. The fetch-decode-execute sequencer (spec/40_sequencer.md R70, R73). -/

namespace Sys2Proof.Machine

/-- The test made at the step boundary before anything of the step happens (R73): not halted, no fatal
decode, and the counter below the ceiling. -/
def State.canStep (s : State) : Bool :=
  !s.halt && s.fatal.isNone && decide (s.ctr < s.params.ceiling)

/-- Lines 1 and 3 of the step: the counter and the unconditional pc advance, which stand before the
dispatch (R70). The fetch of line 2 reads neither's result: it uses the pc from before (R71). -/
def State.beginStep (s : State) : State := s.countInstruction.advancePc

/-- Line 6 of the step, for an instruction that completed (R70, R141). -/
def thenService : Host.Outcome State Fault Refusal → Host.Outcome State Fault Refusal
  | .next t => .next t.trapService
  | .fault r => .fault r
  | .refused r => .refused r

/-- Lines 1 to 7 of R70. An illegal opcode takes the fatal decode, with the count from before the step,
and no later line (R160, R162). -/
def State.runInstruction (s : State) : Host.Outcome State Fault Refusal :=
  match s.fetchDecode with
  | .ok i => thenService (exec i s.beginStep)
  | .error (.illegalOpcode opcode) => .next (s.beginStep.raiseFatalDecode opcode s.ctr)

/-- What happens at a step boundary (R73). A machine stopped by a fatal decode answers it as its fault
(R160, R195a, log 4); one stopped by halt or by the ceiling keeps its state (log 5). -/
def State.sequencerStep (s : State) : Host.Outcome State Fault Refusal :=
  match s.fatal with
  | some r => .fault (.fatalDecode r.opcode r.completed)
  | none => if s.canStep then s.runInstruction else .next s

end Sys2Proof.Machine
end

