-- ==== Sys2Proof/Machine/Step.lean ====
section
/-! DEFINITION. One step of the machine (spec/00_scope.md R8), and the placing of the instruction that the
next step runs. Both only call what Machine/Sequencer.lean and Machine/Fetch.lean define. -/

namespace Sys2Proof.Machine

/-- One step: from a step boundary to the next (R8, R70, R73). -/
def step (s : State) : Host.Outcome State Fault Refusal := s.sequencerStep

/-- `s` with the instruction of `nbits` bits `w` where `step` fetches next, in a machine that takes that
step (log 6). -/
def State.withFetchWord (s : State) (nbits w : Nat) : State := s.placeInstruction nbits w

end Sys2Proof.Machine
end

