-- ==== Sys2Proof/Safety.lean ====
section
/-! DEFINITION. The terms that claims use: how a run ends (spec/40_sequencer.md R74), what the host may
observe (spec/60_exceptions.md R172), what a safe run is (R195), the invariant of the machine, and the
frames of an instruction and of a step. -/

namespace Sys2Proof.Machine

/-- The three ways a run ends (R74). -/
inductive StopOutcome where
  | naturalHalt
  | fatalStop
  | ceilingReached
deriving DecidableEq, Repr

/-- The outcome at a step boundary (R74): none while the machine takes its next step. Reaching the ceiling
is what is left when neither the latch nor the halt flag is set; the halt flag decides over the counter. -/
def State.stopOutcome (s : State) : Option StopOutcome :=
  if s.fatal.isSome then some .fatalStop
  else if s.halt then some .naturalHalt
  else if s.params.ceiling ≤ s.ctr then some .ceilingReached
  else none

/-- The end of a successful run: a natural halt. A faulted state is never one (R160, R195a); whether a run
cut off by the ceiling satisfies a claim is for the claim to say (R195d). -/
def State.succeeded (s : State) : Bool := s.stopOutcome == some .naturalHalt

/-- A memory range `[lo, hi]` as a viewer dumps it (R172). -/
def State.dump (s : State) (lo hi : Nat) : List Word :=
  (List.range' lo (hi + 1 - lo)).map s.mem.read

/-- What a run reports (R79, R172): the outcome, the registers, the pc, the counter against the ceiling, the
result slot (R36), the fatal record and the output. Reading it changes nothing. -/
structure Report where
  outcome : Option StopOutcome
  x : RegFile
  pc : Word
  ctr : Nat
  ceiling : Nat
  result : Word
  fatal : Option FatalRecord
  out : List Word
deriving DecidableEq, Repr

/-- The report of a state, at any step boundary (R24, R172). -/
def State.report (s : State) : Report where
  outcome := s.stopOutcome
  x := s.x
  pc := s.pc
  ctr := s.ctr
  ceiling := s.params.ceiling
  result := s.memRead s.params.resultAddr
  fatal := s.fatal
  out := s.out

/-- What every step boundary satisfies: parameters that fit the model (log 11), the memory in its canonical form, the counter within the ceiling
(R73), halt and fatal decode never both (R74), a latched opcode that is illegal (R16), and in OUT only
codes that a print emits (R143). -/
structure State.Inv (s : State) : Prop where
  params : s.params.fits = true
  memory : s.mem.wf s.params.memWords = true
  counter : s.ctr ≤ s.params.ceiling
  oneStop : s.halt = true → s.fatal = none
  latched : ∀ r, s.fatal = some r → legalOpcode s.params r.opcode = false
  output : ∀ c ∈ s.out, c ≠ 0#16 ∧ validCodePoint s.params c = true

/-- What the trap service emits at the end of a step whose instruction has left the state `u`: nothing without a
request, whatever code a configuration makes the print (R141). -/
def State.servedOutput (u : State) : List Word :=
  if u.memRead u.params.trapAddr = 0#16 then []
  else serviceOutput u.mem u.params (u.memRead u.params.trapAddr)

/-- Every register but those in `written` reads as before. -/
def RegsKept (written : List Reg) (s t : State) : Prop := ∀ r, r ∉ written → t.reg r = s.reg r

/-- Every address outside the cell `cell` reads as before. -/
def MemKeptBut (cell : Nat) (s t : State) : Prop :=
  ∀ a : Word, cellOf s.params a ≠ cell → t.memRead a = s.memRead a

/-- Every address reads as before. -/
def MemKept (s t : State) : Prop := ∀ a : Word, t.memRead a = s.memRead a

/-- What no meaning touches: the counter, the latch, the output and the run's parameters (R23, R81). -/
structure ExecFrame (s t : State) : Prop where
  ctr : t.ctr = s.ctr
  fatal : t.fatal = s.fatal
  out : t.out = s.out
  params : t.params = s.params

/-- `exec` on a register instruction: `d` holds `v`, the pc is `pc'`, and nothing else has changed. -/
structure ExecWritesReg (s t : State) (d : Reg) (v pc' : Word) : Prop where
  result : t.reg d = v
  regs : RegsKept [d] s t
  mem : MemKept s t
  pc : t.pc = pc'
  halt : t.halt = s.halt
  rest : ExecFrame s t

/-- `exec` on a store: the cell of `addr` holds `v`, the pc is `pc'`, and nothing else has changed. -/
structure ExecStores (s t : State) (addr v pc' : Word) : Prop where
  stored : t.memRead addr = v
  mem : MemKeptBut (cellOf s.params addr) s t
  regs : RegsKept [] s t
  pc : t.pc = pc'
  halt : t.halt = s.halt
  rest : ExecFrame s t

/-- `exec` on an instruction that changes at most the pc and the halt flag. -/
structure ExecJumps (s t : State) (pc' : Word) (halt' : Bool) : Prop where
  regs : RegsKept [] s t
  mem : MemKept s t
  pc : t.pc = pc'
  halt : t.halt = halt'
  rest : ExecFrame s t

/-- A step from `s` to `t` of an instruction that completed and left the memory of `u` to the trap service
(`u` is `s` where it stores nothing): the counter one higher (R80), the pc at `pc'` (R72), no fatal decode,
the trap cell clear (R146), every other cell as the instruction left it, and in OUT what the service
emitted (R141). -/
structure StepRetires (s u t : State) (pc' : Word) : Prop where
  ctr : t.ctr = s.ctr + 1
  pc : t.pc = pc'
  fatal : t.fatal = none
  params : t.params = s.params
  trapCell : t.memRead s.params.trapAddr = 0#16
  mem : MemKeptBut (cellOf s.params s.params.trapAddr) u t
  out : t.out = s.out ++ u.servedOutput

/-- A step of an instruction that writes register `d` and nothing else of its own. -/
structure StepWritesReg (s t : State) (d : Reg) (v pc' : Word) : Prop where
  result : t.reg d = v
  regs : RegsKept [d] s t
  halt : t.halt = false
  rest : StepRetires s s t pc'

/-- A step of an instruction that stores `v` at `addr` and nothing else of its own. A store to the trap
cell is gone at the end of the step (R106); what it asked for is in OUT. -/
structure StepStores (s t : State) (addr v pc' : Word) : Prop where
  stored : cellOf s.params addr ≠ cellOf s.params s.params.trapAddr → t.memRead addr = v
  kept : ∀ a : Word, cellOf s.params a ≠ cellOf s.params addr →
    cellOf s.params a ≠ cellOf s.params s.params.trapAddr → t.memRead a = s.memRead a
  regs : RegsKept [] s t
  halt : t.halt = false
  rest : StepRetires s (s.memWrite addr v) t pc'

/-- The fetch at `t` sees that `v` was stored at `addr` in the step before, which began at `s`: whichever of its two
reads selects the stored cell gets `v` (R42), or 0 if the cell is the trap cell (R106). -/
structure FetchSees (s t : State) (addr v : Word) : Prop where
  word : cellOf s.params t.pc = cellOf s.params addr →
    t.fetchWord = if cellOf s.params addr = cellOf s.params s.params.trapAddr then 0#16 else v
  imm : cellOf s.params (t.pc + 1#16) = cellOf s.params addr →
    t.fetchImm = if cellOf s.params addr = cellOf s.params s.params.trapAddr then 0#16 else v

/-- A step of an instruction that writes no register and no cell of its own. -/
structure StepJumps (s t : State) (pc' : Word) (halt' : Bool) : Prop where
  regs : RegsKept [] s t
  halt : t.halt = halt'
  rest : StepRetires s s t pc'

end Sys2Proof.Machine
end

