-- ==== Sys2Proof/Certificates/Slice0/Obligations.lean ====
section
/-! DEFINITION. The statements about the machine, made from the numbered rules of spec/. "D<n>" and "C<n>" in a
docstring name a decision of spec/92_eei_decisions.md or a conflict of spec/90_conflicts.md on which a
clause rests; "log <n>" names an entry of notes/assumptions. The statements hold for every value of the
configuration record of R5 (`State.params`) but where one says otherwise; at the defaults of the record its rows
are the numbers of the rules: 32768 cells, trap cell 2000, payload from 2001, print code 1. -/

open Sys2Proof Sys2Proof.Machine

/-! ### Encoding (30_encoding.md) -/

/-- Words written out from the encoding tables decode to the instructions they stand for (R51, R57). -/
def Obligations.WrittenOutWordsDecode : Prop :=
  decode 0b0000001101000011#16 0#16 = .ok (.mv .r3 .r5)
  ∧ decode 0b0000010000000001#16 42#16 = .ok (.li .r1 42#16)
  ∧ decode 0b0000110010001000#16 2046#16 = .ok (.stio .r2 2046#16 .r1)
  ∧ decode 0b0000111010011001#16 0#16 = .ok (.add .r1 .r2 .r3)
  ∧ decode 0b0010000011000000#16 4#16 = .ok (.jnz .r3 4#16)
  ∧ decode 0b0010011001010000#16 0#16 = .ok (.st .r1 .r2)
  ∧ decode 0b0000000000000000#16 7#16 = .ok .halt
  ∧ decode 0b0010100000000000#16 0#16 = .error (.illegalOpcode 0x14#7)

/-- Decoding the words of any instruction gives it back, whatever Word follows a one-word instruction. -/
def Obligations.DecodeOfEncodeIsTheInstruction : Prop :=
  ∀ (i : Instr) (w : Word) (rest : List Word) (next : Word),
    encode i = w :: rest → decode w (rest.headD next) = .ok i

/-- The other direction: what is encoded again agrees with the decoded word on every bit the format reads,
and holds zero in the ignored ones (R55; that they are ignored is D10). -/
def Obligations.EncodeOfDecodeKeepsTheUsedBits : Prop :=
  ∀ (w imm : Word) (i : Instr), decode w imm = .ok i →
    encodeWord i = w &&& i.format.usedBits ∧ ∀ v, i.immediate = some v → v = imm

/-- Fields a format does not use, and the second word of a one-word instruction, may hold anything (R59,
decision D10; R50). -/
def Obligations.UnusedFieldsDoNotMatter : Prop :=
  ∀ (w w' imm imm' : Word) (i : Instr), decode w imm = .ok i →
    w &&& i.format.usedBits = w' &&& i.format.usedBits → (i.words = 2 → imm = imm') →
    decode w' imm' = .ok i

/-- The four fields are the shifts and masks of R51, and for the word whose bits are four fields in a row
(weights 2^9, 2^6, 2^3, 1) they are exactly those four, whatever the next word of memory holds. -/
def Obligations.FieldExtractionIsShiftAndMask : Prop :=
  (∀ w : Word,
    (opcodeField w).setWidth 16 = (w >>> 9) &&& 0x7F#16
    ∧ (srcAField w).setWidth 16 = (w >>> 6) &&& 0x7#16
    ∧ (srcBField w).setWidth 16 = (w >>> 3) &&& 0x7#16
    ∧ (destField w).setWidth 16 = w &&& 0x7#16)
  ∧ ∀ (op : BitVec 7) (a b d : BitVec 3) (imm : Word),
      fieldsOf (BitVec.ofNat 16 (op.toNat * 512 + a.toNat * 64 + b.toNat * 8 + d.toNat)) imm =
        { opcode := op, srcA := a, srcB := b, dest := d, imm := imm }

/-- `decode` after `encode` gives the four fields back, and `encode` after `decode` the word (R65, which the
spec derives from the fields partitioning the 16 bits). -/
def Obligations.PackAndFieldsAreInverse : Prop :=
  (∀ (op : BitVec 7) (a b d : BitVec 3),
    opcodeField (packWord op a b d) = op ∧ srcAField (packWord op a b d) = a
    ∧ srcBField (packWord op a b d) = b ∧ destField (packWord op a b d) = d)
  ∧ ∀ w : Word, packWord (opcodeField w) (srcAField w) (srcBField w) (destField w) = w

/-- Dispatch is total over the 7-bit opcode: 0x00 to 0x13 each select an instruction of their own, and every
other value is rejected by its opcode, never taken for another instruction (R75). -/
def Obligations.DispatchIsTotalOverOpcodes : Prop :=
  (∀ w imm : Word, (opcodeField w).toNat < 0x14 → ∃ i, decode w imm = .ok i)
  ∧ (∀ w imm : Word, 0x14 ≤ (opcodeField w).toNat →
      decode w imm = .error (.illegalOpcode (opcodeField w)))
  ∧ ∀ (w w' imm imm' : Word) (i i' : Instr), decode w imm = .ok i → decode w' imm' = .ok i' →
      (i.mnemonic = i'.mnemonic ↔ opcodeField w = opcodeField w')

/-- A word is illegal exactly from 0x2800 up; below 0x0200 it is halt (R58, R61, read as numbers). -/
def Obligations.IllegalWordsAreThoseFrom0x2800 : Prop :=
  ∀ w imm : Word, ((∃ i, decode w imm = .ok i) ↔ w.toNat < 0x2800)
    ∧ (decode w imm = .ok .halt ↔ w.toNat < 0x0200)

/-- An instruction word in the last cell has its immediate in cell 0, where `MEM_WORDS` divides 2^16; by default
the last cell is 32767, which the pc selects as 0x7FFF and as 0xFFFF (R54, which the spec derives). -/
def Obligations.ImmediateWrapsToCellZero : Prop :=
  ∀ s : State, s.params.memWords ∣ 65536 → cellOf s.params s.pc = s.params.memWords - 1 →
    s.fetchWord = s.mem.read (s.params.memWords - 1) ∧ s.fetchImm = s.mem.read 0

/-! ### Registers, memory and reset (10_state.md, 20_memory.md, 70_reset_and_hazards.md) -/

/-- Every register, r0 included, holds what is written to it, and a write leaves the other registers and the
rest of the state alone (R11). -/
def Obligations.RegisterHoldsWhatIsWritten : Prop :=
  ∀ (s : State) (r : Reg) (v : Word),
    (s.setReg r v).reg r = v ∧ RegsKept [r] s (s.setReg r v)
    ∧ { s.setReg r v with x := s.x } = s

/-- `MemWrite` changes the cell of its address and nothing else, at every address (R32). With the 32768 cells of
R5 the Word written at `32768 + 5` is read back at 5, the other address of the cell. -/
def Obligations.MemWriteChangesOneCell : Prop :=
  ∀ (s : State) (a b v : Word),
    (s.memWrite a v).memRead b = (if cellOf s.params b = cellOf s.params a then v else s.memRead b)
    ∧ { s.memWrite a v with mem := s.mem } = s
    ∧ (s.params.memWords = 32768 → (s.memWrite (32768#16 + 5#16) v).memRead 5#16 = v)

/-- Addresses are reduced modulo `MEM_WORDS`, 32768 by default: where it divides 2^16, `a` and `a + MEM_WORDS` name
the same cell, for reads and writes, and the cells of the three modes of R105 are those of the immediate, the
register and their integer sum (which R30 derives). -/
def Obligations.AddressesWrapModuloMemWords : Prop :=
  ∀ (s : State) (a v imm : Word) (r : Reg), s.params.memWords ∣ 65536 →
    s.memRead (a + BitVec.ofNat 16 s.params.memWords) = s.memRead a
    ∧ s.memWrite (a + BitVec.ofNat 16 s.params.memWords) v = s.memWrite a v
    ∧ cellOf s.params (s.eaAbsolute imm) = imm.toNat % s.params.memWords
    ∧ cellOf s.params (s.eaIndirect r) = (s.reg r).toNat % s.params.memWords
    ∧ cellOf s.params (s.eaOffset r imm) = ((s.reg r).toNat + imm.toNat) % s.params.memWords

/-- The load at reset, of a memory of any size and from any load base (by default 32768 cells, from 0): a cell
holds the last word of the image that falls on it, and 0 where none does. An image longer than memory wraps
into itself (R180, R181); one that is shorter leaves the rest 0 (R182). -/
def Obligations.ImageLoadLastWriterWins : Prop :=
  ∀ c : Configuration,
    (∀ i (h : i < c.image.length), c.image.length ≤ i + c.memWords →
      (State.boot c).mem.read ((c.resetPc.toNat + i) % c.memWords) = c.image[i])
    ∧ ∀ cell, (∀ i < c.image.length, (c.resetPc.toNat + i) % c.memWords ≠ cell) →
        (State.boot c).mem.read cell = 0#16

/-- What reset leaves beside the memory, for every configuration: the pc is `RESET_PC`, 0 by default (R22; OUT
empty is D13, `fatal` none is the spec's derivation); and `State.reset` is reset with the standard
configuration, whose image is empty and whose ceiling is open (log 2, log 6). -/
def Obligations.ResetLeavesTheResetState : Prop :=
  (∀ c : Configuration,
    (∀ r, (State.boot c).reg r = 0#16) ∧ (State.boot c).pc = c.resetPc
    ∧ (State.boot c).halt = false ∧ (State.boot c).ctr = 0
    ∧ (State.boot c).fatal = none ∧ (State.boot c).out = []
    ∧ (State.boot c).params = c.toParams)
  ∧ State.reset = State.boot Configuration.standard ∧ State.reset.pc = 0#16

/-! ### What each instruction does: `exec` on the state after line 3 of the step (R70, log 10)

In these the pc of `s` is already the address of the instruction plus one. -/

/-- halt sets the halt flag and nothing else (R76). -/
def Obligations.HaltExecutes : Prop :=
  ∀ s : State, ∃ t, exec .halt s = .next t ∧ ExecJumps s t s.pc true

/-- mv copies the source register, li takes the whole immediate (R90, R91). -/
def Obligations.MovesExecute : Prop :=
  ∀ (s : State) (d a : Reg) (imm : Word),
    (∃ t, exec (.mv d a) s = .next t ∧ ExecWritesReg s t d (s.reg a) s.pc)
    ∧ ∃ t, exec (.li d imm) s = .next t ∧ ExecWritesReg s t d imm (s.pc + 1#16)

/-- The three loads read the cell of their address, computed from the registers before the write, and change
no memory (R100, R101, R102). -/
def Obligations.LoadsExecute : Prop :=
  ∀ (s : State) (d a : Reg) (imm : Word),
    (∃ t, exec (.ldraw d imm) s = .next t
      ∧ ExecWritesReg s t d (s.memRead (s.eaAbsolute imm)) (s.pc + 1#16))
    ∧ (∃ t, exec (.ldind d a) s = .next t
      ∧ ExecWritesReg s t d (s.memRead (s.eaIndirect a)) s.pc)
    ∧ ∃ t, exec (.ldio d a imm) s = .next t
      ∧ ExecWritesReg s t d (s.memRead (s.eaOffset a imm)) (s.pc + 1#16)

/-- The two stores change the cell of their address and nothing else; to the trap cell too, which the trap
service acts on later in the step (R103, R104, R106). -/
def Obligations.StoresExecute : Prop :=
  ∀ (s : State) (a b : Reg) (imm : Word),
    (∃ t, exec (.stio a imm b) s = .next t
      ∧ ExecStores s t (s.eaOffset a imm) (s.reg b) (s.pc + 1#16))
    ∧ ∃ t, exec (.st a b) s = .next t ∧ ExecStores s t (s.eaIndirect a) (s.reg b) s.pc

/-- add, sub, neg and addi are exact modulo 65536 and write nothing but the destination: no carry, no borrow,
no flag (R110, R111, R112, R118, R119). -/
def Obligations.ArithmeticExecutes : Prop :=
  ∀ (s : State) (d a b : Reg) (imm : Word),
    (∃ t v, exec (.add d a b) s = .next t ∧ ExecWritesReg s t d v s.pc
      ∧ v.toNat = ((s.reg a).toNat + (s.reg b).toNat) % 65536)
    ∧ (∃ t v, exec (.sub d a b) s = .next t ∧ ExecWritesReg s t d v s.pc
      ∧ v.toNat = ((s.reg a).toNat + 65536 - (s.reg b).toNat) % 65536)
    ∧ (∃ t v, exec (.neg d a) s = .next t ∧ ExecWritesReg s t d v s.pc
      ∧ v.toNat = (65536 - (s.reg a).toNat) % 65536)
    ∧ ∃ t v, exec (.addi d a imm) s = .next t ∧ ExecWritesReg s t d v (s.pc + 1#16)
      ∧ v.toNat = ((s.reg a).toNat + imm.toNat) % 65536

/-- xor, nand, and, or and not act on each of the 16 bits on its own and write nothing but the destination
(R113 to R117, R119); the complement of a Word `a` is `65535 - a` (R7). -/
def Obligations.LogicExecutes : Prop :=
  ∀ (s : State) (d a b : Reg),
    (∃ t v, exec (.xor d a b) s = .next t ∧ ExecWritesReg s t d v s.pc
      ∧ ∀ k < 16, v.getLsbD k = ((s.reg a).getLsbD k != (s.reg b).getLsbD k))
    ∧ (∃ t v, exec (.nand d a b) s = .next t ∧ ExecWritesReg s t d v s.pc
      ∧ ∀ k < 16, v.getLsbD k = !((s.reg a).getLsbD k && (s.reg b).getLsbD k))
    ∧ (∃ t v, exec (.and d a b) s = .next t ∧ ExecWritesReg s t d v s.pc
      ∧ ∀ k < 16, v.getLsbD k = ((s.reg a).getLsbD k && (s.reg b).getLsbD k))
    ∧ (∃ t v, exec (.or d a b) s = .next t ∧ ExecWritesReg s t d v s.pc
      ∧ ∀ k < 16, v.getLsbD k = ((s.reg a).getLsbD k || (s.reg b).getLsbD k))
    ∧ ∃ t v, exec (.not d a) s = .next t ∧ ExecWritesReg s t d v s.pc
      ∧ v.toNat = 65535 - (s.reg a).toNat

/-- j and jimm write their target to the pc whole, bit 15 included, and it is not incremented afterwards
(R130, R132, R133). No register changes: no return address is saved. -/
def Obligations.JumpsExecute : Prop :=
  ∀ (s : State) (a : Reg) (imm : Word),
    (∃ t, exec (.j a) s = .next t ∧ ExecJumps s t (s.reg a) s.halt)
    ∧ ∃ t, exec (.jimm imm) s = .next t ∧ ExecJumps s t imm s.halt

/-- jnz is taken for every value but 0, and then leaves exactly the target in the pc; not taken it moves the
pc past the immediate word (R131; the not-taken pc is the spec's choice D3 in conflict C1: log 9). -/
def Obligations.BranchExecutes : Prop :=
  ∀ (s : State) (a : Reg) (imm : Word),
    (s.reg a ≠ 0#16 → ∃ t, exec (.jnz a imm) s = .next t ∧ ExecJumps s t imm s.halt)
    ∧ (s.reg a = 0#16 →
        ∃ t, exec (.jnz a imm) s = .next t ∧ ExecJumps s t (s.pc + 1#16) s.halt)

/-- What `exec` leaves alone, over all 20 instructions at once (R23, R81): registers but the destination,
memory but the cell of a store's address, the halt flag but for halt; and at most one of the four kinds
of state is written. -/
def Obligations.ExecWritesOnlyItsDestination : Prop :=
  ∀ (i : Instr) (s t : State), exec i s = .next t →
    ExecFrame s t
    ∧ (match i with
      | .mv d _ | .li d _ | .ldraw d _ | .ldind d _ | .ldio d _ _ | .add d _ _ | .sub d _ _
      | .neg d _ | .xor d _ _ | .nand d _ _ | .and d _ _ | .or d _ _ | .not d _ | .addi d _ _ =>
        RegsKept [d] s t ∧ MemKept s t ∧ t.halt = s.halt ∧ t.pc = s.pc + BitVec.ofNat 16 (i.words - 1)
      | .stio a imm _ =>
        RegsKept [] s t ∧ MemKeptBut (cellOf s.params (s.eaOffset a imm)) s t ∧ t.halt = s.halt
          ∧ t.pc = s.pc + BitVec.ofNat 16 (i.words - 1)
      | .st a _ =>
        RegsKept [] s t ∧ MemKeptBut (cellOf s.params (s.eaIndirect a)) s t ∧ t.halt = s.halt
          ∧ t.pc = s.pc + BitVec.ofNat 16 (i.words - 1)
      | .j _ | .jnz _ _ | .jimm _ => RegsKept [] s t ∧ MemKept s t ∧ t.halt = s.halt
      | .halt => RegsKept [] s t ∧ MemKept s t ∧ t.pc = s.pc)

/-! ### What a step does (40_sequencer.md to 44_control_transfer.md)

The words at the pc are given by their fields: a field that the statement leaves free is one the
instruction ignores. -/

/-- A step runs the decoded instruction: the counter and the pc are advanced, `exec` has its effect, and the
trap service follows (R70). -/
def Obligations.StepRunsTheDecodedInstruction : Prop :=
  ∀ (s : State) (i : Instr), s.canStep = true → decode (s.memRead s.pc) (s.memRead (s.pc + 1#16)) = .ok i →
    ∃ t, exec i { s with ctr := s.ctr + 1, pc := s.pc + 1#16 } = .next t
      ∧ step s = .next t.trapService

/-- A step of mv or li, from the words in memory to the next boundary. -/
def Obligations.MoveSteps : Prop :=
  ∀ (s : State) (d a : Reg) (b a' : BitVec 3), s.canStep = true →
    (s.memRead s.pc = packWord 0x01#7 a.field b d.field →
      ∃ t, step s = .next t ∧ StepWritesReg s t d (s.reg a) (s.pc + 1#16))
    ∧ (s.memRead s.pc = packWord 0x02#7 a' b d.field →
      ∃ t, step s = .next t
        ∧ StepWritesReg s t d (s.memRead (s.pc + 1#16)) (s.pc + 2#16))

/-- A step of ldraw, ldind or ldio, from the words in memory to the next boundary. -/
def Obligations.LoadSteps : Prop :=
  ∀ (s : State) (d a : Reg) (b a' : BitVec 3), s.canStep = true →
    (s.memRead s.pc = packWord 0x03#7 a' b d.field →
      ∃ t, step s = .next t
        ∧ StepWritesReg s t d (s.memRead (s.memRead (s.pc + 1#16))) (s.pc + 2#16))
    ∧ (s.memRead s.pc = packWord 0x04#7 a.field b d.field →
      ∃ t, step s = .next t ∧ StepWritesReg s t d (s.memRead (s.reg a)) (s.pc + 1#16))
    ∧ (s.memRead s.pc = packWord 0x05#7 a.field b d.field →
      ∃ t, step s = .next t
        ∧ StepWritesReg s t d (s.memRead (s.reg a + s.memRead (s.pc + 1#16))) (s.pc + 2#16))

/-- A step of stio or st: the store lands where R103 and R104 say, uses the immediate fetched before it (R41),
and a request it raises in the trap cell is served and cleared in the same step (R106). -/
def Obligations.StoreSteps : Prop :=
  ∀ (s : State) (a b : Reg) (d : BitVec 3), s.canStep = true →
    (s.memRead s.pc = packWord 0x06#7 a.field b.field d →
      ∃ t, step s = .next t
        ∧ StepStores s t (s.eaOffset a (s.memRead (s.pc + 1#16))) (s.reg b) (s.pc + 2#16))
    ∧ (s.memRead s.pc = packWord 0x13#7 a.field b.field d →
      ∃ t, step s = .next t ∧ StepStores s t (s.eaIndirect a) (s.reg b) (s.pc + 1#16))

/-- A step of the three-register instructions add, sub, xor, nand, and, or. -/
def Obligations.ThreeRegisterSteps : Prop :=
  ∀ (s : State) (d a b : Reg), s.canStep = true →
    (s.memRead s.pc = packWord 0x07#7 a.field b.field d.field → ∃ t, step s = .next t ∧
      StepWritesReg s t d (BitVec.ofNat 16 ((s.reg a).toNat + (s.reg b).toNat)) (s.pc + 1#16))
    ∧ (s.memRead s.pc = packWord 0x08#7 a.field b.field d.field → ∃ t, step s = .next t ∧
      StepWritesReg s t d (BitVec.ofNat 16 ((s.reg a).toNat + 65536 - (s.reg b).toNat)) (s.pc + 1#16))
    ∧ (s.memRead s.pc = packWord 0x0A#7 a.field b.field d.field → ∃ t, step s = .next t ∧
      StepWritesReg s t d (s.reg a ^^^ s.reg b) (s.pc + 1#16))
    ∧ (s.memRead s.pc = packWord 0x0B#7 a.field b.field d.field → ∃ t, step s = .next t ∧
      StepWritesReg s t d (BitVec.ofNat 16 (65535 - (s.reg a &&& s.reg b).toNat)) (s.pc + 1#16))
    ∧ (s.memRead s.pc = packWord 0x0C#7 a.field b.field d.field → ∃ t, step s = .next t ∧
      StepWritesReg s t d (s.reg a &&& s.reg b) (s.pc + 1#16))
    ∧ (s.memRead s.pc = packWord 0x0D#7 a.field b.field d.field → ∃ t, step s = .next t ∧
      StepWritesReg s t d (s.reg a ||| s.reg b) (s.pc + 1#16))

/-- A step of neg, not or addi. -/
def Obligations.OneSourceSteps : Prop :=
  ∀ (s : State) (d a : Reg) (b : BitVec 3), s.canStep = true →
    (s.memRead s.pc = packWord 0x09#7 a.field b d.field → ∃ t, step s = .next t ∧
      StepWritesReg s t d (BitVec.ofNat 16 (65536 - (s.reg a).toNat)) (s.pc + 1#16))
    ∧ (s.memRead s.pc = packWord 0x0E#7 a.field b d.field → ∃ t, step s = .next t ∧
      StepWritesReg s t d (BitVec.ofNat 16 (65535 - (s.reg a).toNat)) (s.pc + 1#16))
    ∧ (s.memRead s.pc = packWord 0x12#7 a.field b d.field → ∃ t, step s = .next t ∧
      StepWritesReg s t d
        (BitVec.ofNat 16 ((s.reg a).toNat + (s.memRead (s.pc + 1#16)).toNat)) (s.pc + 2#16))

/-- A step of j or jimm: the target exactly, and no register changes. -/
def Obligations.JumpSteps : Prop :=
  ∀ (s : State) (a : Reg) (a' b d : BitVec 3), s.canStep = true →
    (s.memRead s.pc = packWord 0x0F#7 a.field b d →
      ∃ t, step s = .next t ∧ StepJumps s t (s.reg a) false)
    ∧ (s.memRead s.pc = packWord 0x11#7 a' b d →
      ∃ t, step s = .next t ∧ StepJumps s t (s.memRead (s.pc + 1#16)) false)

/-- A step of jnz: taken, the target exactly; not taken, the address after the immediate word (the spec's
choice D3 in conflict C1: log 9). -/
def Obligations.BranchSteps : Prop :=
  ∀ (s : State) (a : Reg) (b d : BitVec 3), s.canStep = true →
    s.memRead s.pc = packWord 0x10#7 a.field b d →
    ∃ t, step s = .next t
      ∧ StepJumps s t (if s.reg a = 0#16 then s.pc + 2#16 else s.memRead (s.pc + 1#16)) false

/-- A step of halt: it counts, the pc is the address after it, the trap service still runs (D8), and the
machine is stopped with the outcome of a natural halt, also as the last instruction the ceiling allows
(D4). -/
def Obligations.HaltSteps : Prop :=
  ∀ (s : State) (a b d : BitVec 3), s.canStep = true → s.memRead s.pc = packWord 0x00#7 a b d →
    ∃ t, step s = .next t ∧ StepJumps s t (s.pc + 1#16) true ∧ t.stopOutcome = some .naturalHalt

/-- The pc-advance law over all 20 instructions (R72; jnz not taken is the spec's choice D3). -/
def Obligations.PcAdvanceLaw : Prop :=
  ∀ (s t : State) (i : Instr), s.canStep = true → s.fetchDecode = .ok i → step s = .next t →
    t.pc = match i with
      | .halt | .mv _ _ | .ldind _ _ | .add _ _ _ | .sub _ _ _ | .neg _ _ | .xor _ _ _
      | .nand _ _ _ | .and _ _ _ | .or _ _ _ | .not _ _ | .st _ _ => s.pc + 1#16
      | .li _ _ | .ldraw _ _ | .ldio _ _ _ | .stio _ _ _ | .addi _ _ _ => s.pc + 2#16
      | .j a => s.reg a
      | .jimm imm => imm
      | .jnz a imm => if s.reg a = 0#16 then s.pc + 2#16 else imm

/-- A store is seen by the very next fetch, by both of its reads: after a step of st or stio, where the pc of the
next boundary selects the stored cell the instruction word fetched is the Word stored, and where the address
after it does, so is the immediate (R42, decision D16). The trap cell reads 0 by then (R106). -/
def Obligations.NextFetchSeesTheStore : Prop :=
  ∀ (s : State) (a b : Reg) (imm : Word), s.canStep = true →
    (s.fetchDecode = .ok (.st a b) →
      ∃ t, step s = .next t ∧ t.pc = s.pc + 1#16 ∧ FetchSees s t (s.eaIndirect a) (s.reg b))
    ∧ (s.fetchDecode = .ok (.stio a imm b) →
      ∃ t, step s = .next t ∧ t.pc = s.pc + 2#16 ∧ FetchSees s t (s.eaOffset a imm) (s.reg b))

/-! ### The sequencer (40_sequencer.md) and the fatal decode (60_exceptions.md) -/

/-- A step is taken exactly when the machine is not halted, has no fatal decode and is below the ceiling;
otherwise no state changes (R73). The test comes first: at the ceiling nothing is fetched, an illegal
word neither (R165). That an allowed step onto an illegal word answers a next state too is the model's
choice of log 4, and that its counter is one higher there the spec's decision D7; that a stopped machine
answers its own state or a fault is log 4 and log 5. -/
def Obligations.StepIsTakenExactlyWhenAllowed : Prop :=
  ∀ s : State,
    ((∃ t, step s = .next t ∧ t.ctr = s.ctr + 1)
      ↔ s.halt = false ∧ s.fatal = none ∧ s.ctr < s.params.ceiling)
    ∧ (¬(s.halt = false ∧ s.fatal = none ∧ s.ctr < s.params.ceiling) →
        ∀ t, step s = .next t → t = s)

/-- How the model answers a step of a stopped machine, its own choice: after a halt or at the ceiling the same
state (log 5), after a fatal decode the fault with the latched record (log 4). -/
def Obligations.StoppedMachineAnswers : Prop :=
  ∀ s : State,
    (∀ r, s.fatal = some r → step s = .fault (.fatalDecode r.opcode r.completed))
    ∧ (s.fatal = none → s.halt = true ∨ s.params.ceiling ≤ s.ctr → step s = .next s)

/-- An opcode of 0x14 or more latches the opcode and the count of instructions completed before, whatever the
operand fields and the immediate hold, and stops the machine; nothing else ever writes the latch (R160). That
the step which raises it answers a next state is the model's choice (log 4): the spec says only that a
model treats the exception as a fault. -/
def Obligations.FatalDecodeLatchesTheRecord : Prop :=
  (∀ (s : State) (op : BitVec 7) (a b d : BitVec 3), s.canStep = true →
    s.memRead s.pc = packWord op a b d → 0x14 ≤ op.toNat →
    ∃ t, step s = .next t ∧ t.fatal = some { opcode := op, completed := s.ctr }
      ∧ t.stopOutcome = some .fatalStop)
  ∧ ∀ s t : State, step s = .next t → t.fatal ≠ s.fatal →
      s.canStep = true ∧ 0x14 ≤ (opcodeField (s.memRead s.pc)).toNat

/-- A fatal decode has no effect on registers and memory (R163); by decision D7 the counter keeps its
increment and the pc its first advance, and no trap service runs, so OUT and the trap cell are as they
were. The clauses on the counter, the pc and the trap cell are the spec's choice, not the source's; that the
step answers a next state is the model's (log 4). -/
def Obligations.FatalDecodeLeavesTheRestAlone : Prop :=
  ∀ s : State, s.canStep = true → 0x14 ≤ (opcodeField (s.memRead s.pc)).toNat →
    ∃ t, step s = .next t ∧ RegsKept [] s t ∧ MemKept s t ∧ t.halt = false ∧ t.out = s.out
      ∧ t.params = s.params ∧ t.ctr = s.ctr + 1 ∧ t.pc = s.pc + 1#16

/-- The halt flag is set by opcode 0 and by nothing else, and never cleared (R14, decision D4). -/
def Obligations.HaltFlagOnlyFromHalt : Prop :=
  ∀ s t : State, step s = .next t →
    (t.halt = true ↔ s.halt = true
      ∨ (s.canStep = true ∧ (opcodeField (s.memRead s.pc)).toNat = 0))

/-- Each step that is taken adds exactly 1 to the counter, whatever the instruction and its length (R80; for a
fatal decode it is decision D7, and that it answers a state log 4). Where none is taken the answer is the
state as it was, the model's choice (log 5). -/
def Obligations.CounterCountsInstructions : Prop :=
  ∀ s t : State, step s = .next t → t.ctr = if s.canStep then s.ctr + 1 else s.ctr

/-- OUT only grows at its end, and only by codes of one print, by default at most 30767; no step changes the run's
parameters (R19, R17). -/
def Obligations.OutputIsAppendOnly : Prop :=
  ∀ s t : State, step s = .next t → t.params = s.params ∧ ∃ codes, t.out = s.out ++ codes
    ∧ codes.length ≤ s.params.memWords - s.params.payloadBase ∧ ∀ c ∈ codes, c ≠ 0#16 ∧ validCodePoint s.params c = true

/-- Nothing sticks and nothing is refused: without a latched fatal decode every state has a next one. That every
legal instruction has a step is R195b, that nothing is refused R195c. The rest is the model's choice: an
illegal word is answered with a next state too (log 4), and a machine that is halted or at the ceiling, where
R73 takes no step, with its own state (log 5). -/
def Obligations.EveryUnfaultedStateSteps : Prop :=
  (∀ s : State, s.fatal = none → ∃ t, step s = .next t)
  ∧ ∀ (s : State) (r : Refusal), step s ≠ .refused r

/-- The outcomes of R74: none is left exactly where a step is taken, and on every state that keeps the
invariant each outcome has the condition R74 gives it. That a halt at the ceiling is a natural halt is
decision D4. -/
def Obligations.StopOutcomesAreExclusive : Prop :=
  ∀ s : State, (s.stopOutcome = none ↔ s.canStep = true)
    ∧ (s.Inv →
        (s.stopOutcome = some .naturalHalt ↔ s.halt = true)
        ∧ (s.stopOutcome = some .fatalStop ↔ s.fatal ≠ none)
        ∧ (s.stopOutcome = some .ceilingReached
            ↔ s.halt = false ∧ s.fatal = none ∧ s.params.ceiling ≤ s.ctr))

/-! ### The trap service (45_trap_service.md) -/

/-- The cases of the service: no request, nothing at all happens; otherwise only OUT and the trap cell change,
OUT by the string for the print code and by nothing for any other code (R141, R145). -/
def Obligations.TrapServiceCases : Prop :=
  ∀ s : State,
    (s.memRead s.params.trapAddr = 0#16 → s.trapService = s)
    ∧ (s.memRead s.params.trapAddr ≠ 0#16 →
        s.trapService =
          { s with
            mem := s.trapService.mem
            out := s.out ++ if s.memRead s.params.trapAddr = s.params.trapPrint
              then printString s.mem s.params else [] })
    ∧ MemKeptBut (cellOf s.params s.params.trapAddr) s s.trapService

/-- Every code but 0 and the print code, by default the codes 2 to 65535, is ignored: nothing is emitted, the cell is
cleared, and nothing else changes (R145). -/
def Obligations.UnknownTrapCodesAreIgnored : Prop :=
  ∀ s : State, s.memRead s.params.trapAddr ≠ 0#16 →
    s.memRead s.params.trapAddr ≠ s.params.trapPrint →
    s.trapService.out = s.out ∧ s.trapService.memRead s.params.trapAddr = 0#16
    ∧ MemKeptBut (cellOf s.params s.params.trapAddr) s s.trapService
    ∧ { s.trapService with mem := s.mem } = s

/-- The request is always consumed: after the service, and after every step that completes, the trap cell is
0, whatever it held; and where it is already 0 the service writes nothing (R146). -/
def Obligations.TrapCellIsZeroAfterEveryStep : Prop :=
  (∀ s : State, s.trapService.memRead s.params.trapAddr = 0#16)
  ∧ (∀ s : State, s.memRead s.params.trapAddr = 0#16 → s.trapService.mem = s.mem)
  ∧ ∀ s t : State, s.canStep = true → step s = .next t → t.fatal = none →
      t.memRead s.params.trapAddr = 0#16

/-- The string print, characterised: the emitted codes are the cells from `PAYLOAD_BASE` up, in order, all of them
in memory, non-zero and valid, and the run is as long as can be: it ends before a zero, before an invalid
code point, or at the end of memory, by default after cell 32767 (R143). -/
def Obligations.PrintEmitsTheLongestValidRun : Prop :=
  ∀ (m : Memory) (p : Params),
    (∀ k (h : k < (printString m p).length),
      p.payloadBase + k < p.memWords
        ∧ (printString m p)[k] = m.read (p.payloadBase + k) ∧ m.read (p.payloadBase + k) ≠ 0#16
        ∧ validCodePoint p (m.read (p.payloadBase + k)) = true)
    ∧ (p.memWords ≤ p.payloadBase + (printString m p).length
      ∨ m.read (p.payloadBase + (printString m p).length) = 0#16
      ∨ validCodePoint p (m.read (p.payloadBase + (printString m p).length)) = false)

/-- The default of `ValidCodePoint`: all Words but the surrogates (R144, decision D9, general knowledge G1:
log 3). -/
def Obligations.DefaultInvalidCodesAreSurrogates : Prop :=
  ∀ c : Word, validCodePoint Params.standard c = false ↔ 0xD800 ≤ c.toNat ∧ c.toNat ≤ 0xDFFF

/-- The second pc advance and the trap service commute (R78, which the spec derives; conflict C3). -/
def Obligations.AdvanceAndServiceCommute : Prop :=
  ∀ (s : State) (words : Nat) (wrotePc : Bool),
    (s.finish words wrotePc).trapService = s.trapService.finish words wrotePc

/-! ### The whole machine -/

/-- The state after reset satisfies the invariant, with every image and every choice of parameters that fits the
model (log 11). That the memory has one canonical form is the model's (log 1). -/
def Obligations.ResetSatisfiesTheInvariant : Prop :=
  State.reset.Inv ∧ ∀ c : Configuration, c.toParams.fits = true → (State.boot c).Inv

/-- Every step keeps the invariant: the memory stays in its canonical form (log 1), the counter within the ceiling
(R73), halt and fatal decode stay exclusive (R74), the latch holds only illegal opcodes (R16), and OUT
only codes a print may emit (R143). -/
def Obligations.EveryStepKeepsTheInvariant : Prop :=
  ∀ s t : State, s.Inv → step s = .next t → t.Inv

/-- Every run ends within the ceiling: once as many steps have been asked for as the counter is below it, either the
machine stands stopped with one of the three outcomes, or an earlier state of the run is a fatal stop and the
run answers the fault of its record. A counter within the ceiling never passes it, and no run is refused
(R79, which the spec derives). That a stopped machine answers its state, and a faulted one its fault, is the
model's choice (log 5, log 4). -/
def Obligations.EveryRunEndsWithinTheCeiling : Prop :=
  ∀ (s : State) (k : Nat),
    (s.params.ceiling ≤ s.ctr + k →
      (∃ t, Sys2Proof.core.run k s = .next t ∧ t.canStep = false ∧ t.stopOutcome ≠ none)
      ∨ ∃ j t r, j < k ∧ Sys2Proof.core.run j s = .next t ∧ t.fatal = some r
          ∧ t.stopOutcome = some .fatalStop
          ∧ Sys2Proof.core.run k s = .fault (.fatalDecode r.opcode r.completed))
    ∧ (∀ t, Sys2Proof.core.run k s = .next t → s.ctr ≤ s.params.ceiling →
        t.ctr ≤ s.params.ceiling ∧ t.ctr ≤ s.ctr + k)
    ∧ ∀ r, Sys2Proof.core.run k s ≠ .refused r

/-- Bit 15 of the pc selects nothing where `MEM_WORDS` divides 2^15, as its default does: two machines that differ
only in it make the same run, instruction by instruction, and differ in it alone at the end, so what is said
of `pc mod 32768` holds under either reading of conflict C4 (R12, decision D2). -/
def Obligations.RunsIgnoreBit15OfThePc : Prop :=
  ∀ (s t : State) (k : Nat), s.params.memWords ∣ 32768 → Sys2Proof.core.run k s = .next t →
    ∃ p : Word, Sys2Proof.core.run k { s with pc := s.pc + 32768#16 } = .next { t with pc := p }
      ∧ cellOf t.params p = cellOf t.params t.pc

/-- The defaults of the configuration record are the table of R5, row by row, beside whichever ceiling and image;
they fit the model, and reset has them. The ceiling of `State.reset` is the opaque one (log 2), the range of
invalid code points the spec's from general knowledge (log 3). -/
def Obligations.DefaultConfigurationIsTheTable : Prop :=
  (∀ (n : Nat) (image : List Word), ({ ceiling := n, image := image } : Configuration) =
    { xlen := 16, nregs := 8, opcBits := 7, numOpcodes := 20, memWords := 32768
      trapAddr := 2000#16, payloadBase := 2001, trapPrint := 1#16, resultAddr := 2046#16
      resetPc := 0#16, ceiling := n, invalidCodePoints := [{ lo := 0xD800#16, hi := 0xDFFF#16 }]
      image := image })
  ∧ (∀ n : Nat, ({ ceiling := n } : Params).fits = true)
  ∧ State.reset.params = { ceiling := Config.ceiling }
end

