-- ==== Sys2Proof/Laws/State.lean ====
section
/-! SUPPORT. One lemma per field per update of the state, true by rfl, so that no later proof unfolds a record
update; and what the accessors of one kind of state see of the updates of another. -/

namespace Sys2Proof.Laws

open Sys2Proof Sys2Proof.Machine

variable (s : State)

@[simp] theorem setReg_x (r : Reg) (v : Word) : (s.setReg r v).x = setRegFile s.x r v := rfl
@[simp] theorem setReg_pc (r : Reg) (v : Word) : (s.setReg r v).pc = s.pc := rfl
@[simp] theorem setReg_halt (r : Reg) (v : Word) : (s.setReg r v).halt = s.halt := rfl
@[simp] theorem setReg_ctr (r : Reg) (v : Word) : (s.setReg r v).ctr = s.ctr := rfl
@[simp] theorem setReg_fatal (r : Reg) (v : Word) : (s.setReg r v).fatal = s.fatal := rfl
@[simp] theorem setReg_mem (r : Reg) (v : Word) : (s.setReg r v).mem = s.mem := rfl
@[simp] theorem setReg_out (r : Reg) (v : Word) : (s.setReg r v).out = s.out := rfl
@[simp] theorem setReg_params (r : Reg) (v : Word) : (s.setReg r v).params = s.params := rfl
@[simp] theorem setReg_memRead (r : Reg) (v : Word) (b : Word) : (s.setReg r v).memRead b = s.memRead b := rfl

@[simp] theorem memWrite_x (a v : Word) : (s.memWrite a v).x = s.x := rfl
@[simp] theorem memWrite_pc (a v : Word) : (s.memWrite a v).pc = s.pc := rfl
@[simp] theorem memWrite_halt (a v : Word) : (s.memWrite a v).halt = s.halt := rfl
@[simp] theorem memWrite_ctr (a v : Word) : (s.memWrite a v).ctr = s.ctr := rfl
@[simp] theorem memWrite_fatal (a v : Word) : (s.memWrite a v).fatal = s.fatal := rfl
@[simp] theorem memWrite_mem (a v : Word) : (s.memWrite a v).mem = s.mem.write (cellOf s.params a) v := rfl
@[simp] theorem memWrite_out (a v : Word) : (s.memWrite a v).out = s.out := rfl
@[simp] theorem memWrite_params (a v : Word) : (s.memWrite a v).params = s.params := rfl
@[simp] theorem memWrite_reg (a v : Word) (q : Reg) : (s.memWrite a v).reg q = s.reg q := rfl

@[simp] theorem setPc_x (p : Word) : (s.setPc p).x = s.x := rfl
@[simp] theorem setPc_pc (p : Word) : (s.setPc p).pc = p := rfl
@[simp] theorem setPc_halt (p : Word) : (s.setPc p).halt = s.halt := rfl
@[simp] theorem setPc_ctr (p : Word) : (s.setPc p).ctr = s.ctr := rfl
@[simp] theorem setPc_fatal (p : Word) : (s.setPc p).fatal = s.fatal := rfl
@[simp] theorem setPc_mem (p : Word) : (s.setPc p).mem = s.mem := rfl
@[simp] theorem setPc_out (p : Word) : (s.setPc p).out = s.out := rfl
@[simp] theorem setPc_params (p : Word) : (s.setPc p).params = s.params := rfl
@[simp] theorem setPc_reg (p : Word) (q : Reg) : (s.setPc p).reg q = s.reg q := rfl
@[simp] theorem setPc_memRead (p : Word) (b : Word) : (s.setPc p).memRead b = s.memRead b := rfl

@[simp] theorem advancePc_x : (s.advancePc).x = s.x := rfl
@[simp] theorem advancePc_pc : (s.advancePc).pc = s.pc + 1#16 := rfl
@[simp] theorem advancePc_halt : (s.advancePc).halt = s.halt := rfl
@[simp] theorem advancePc_ctr : (s.advancePc).ctr = s.ctr := rfl
@[simp] theorem advancePc_fatal : (s.advancePc).fatal = s.fatal := rfl
@[simp] theorem advancePc_mem : (s.advancePc).mem = s.mem := rfl
@[simp] theorem advancePc_out : (s.advancePc).out = s.out := rfl
@[simp] theorem advancePc_params : (s.advancePc).params = s.params := rfl
@[simp] theorem advancePc_reg (q : Reg) : (s.advancePc).reg q = s.reg q := rfl
@[simp] theorem advancePc_memRead (b : Word) : (s.advancePc).memRead b = s.memRead b := rfl

@[simp] theorem countInstruction_x : (s.countInstruction).x = s.x := rfl
@[simp] theorem countInstruction_pc : (s.countInstruction).pc = s.pc := rfl
@[simp] theorem countInstruction_halt : (s.countInstruction).halt = s.halt := rfl
@[simp] theorem countInstruction_ctr : (s.countInstruction).ctr = s.ctr + 1 := rfl
@[simp] theorem countInstruction_fatal : (s.countInstruction).fatal = s.fatal := rfl
@[simp] theorem countInstruction_mem : (s.countInstruction).mem = s.mem := rfl
@[simp] theorem countInstruction_out : (s.countInstruction).out = s.out := rfl
@[simp] theorem countInstruction_params : (s.countInstruction).params = s.params := rfl
@[simp] theorem countInstruction_reg (q : Reg) : (s.countInstruction).reg q = s.reg q := rfl
@[simp] theorem countInstruction_memRead (b : Word) : (s.countInstruction).memRead b = s.memRead b := rfl

@[simp] theorem emit_x (codes : List Word) : (s.emit codes).x = s.x := rfl
@[simp] theorem emit_pc (codes : List Word) : (s.emit codes).pc = s.pc := rfl
@[simp] theorem emit_halt (codes : List Word) : (s.emit codes).halt = s.halt := rfl
@[simp] theorem emit_ctr (codes : List Word) : (s.emit codes).ctr = s.ctr := rfl
@[simp] theorem emit_fatal (codes : List Word) : (s.emit codes).fatal = s.fatal := rfl
@[simp] theorem emit_mem (codes : List Word) : (s.emit codes).mem = s.mem := rfl
@[simp] theorem emit_out (codes : List Word) : (s.emit codes).out = s.out ++ codes := rfl
@[simp] theorem emit_params (codes : List Word) : (s.emit codes).params = s.params := rfl
@[simp] theorem emit_reg (codes : List Word) (q : Reg) : (s.emit codes).reg q = s.reg q := rfl
@[simp] theorem emit_memRead (codes : List Word) (b : Word) : (s.emit codes).memRead b = s.memRead b := rfl

@[simp] theorem setHalt_x : (s.setHalt).x = s.x := rfl
@[simp] theorem setHalt_pc : (s.setHalt).pc = s.pc := rfl
@[simp] theorem setHalt_halt : (s.setHalt).halt = true := rfl
@[simp] theorem setHalt_ctr : (s.setHalt).ctr = s.ctr := rfl
@[simp] theorem setHalt_fatal : (s.setHalt).fatal = s.fatal := rfl
@[simp] theorem setHalt_mem : (s.setHalt).mem = s.mem := rfl
@[simp] theorem setHalt_out : (s.setHalt).out = s.out := rfl
@[simp] theorem setHalt_params : (s.setHalt).params = s.params := rfl
@[simp] theorem setHalt_reg (q : Reg) : (s.setHalt).reg q = s.reg q := rfl
@[simp] theorem setHalt_memRead (b : Word) : (s.setHalt).memRead b = s.memRead b := rfl

@[simp] theorem raiseFatalDecode_x (op : BitVec 7) (n : Nat) : (s.raiseFatalDecode op n).x = s.x := rfl
@[simp] theorem raiseFatalDecode_pc (op : BitVec 7) (n : Nat) : (s.raiseFatalDecode op n).pc = s.pc := rfl
@[simp] theorem raiseFatalDecode_halt (op : BitVec 7) (n : Nat) : (s.raiseFatalDecode op n).halt = s.halt := rfl
@[simp] theorem raiseFatalDecode_ctr (op : BitVec 7) (n : Nat) : (s.raiseFatalDecode op n).ctr = s.ctr := rfl
@[simp] theorem raiseFatalDecode_fatal (op : BitVec 7) (n : Nat) : (s.raiseFatalDecode op n).fatal = some { opcode := op, completed := n } := rfl
@[simp] theorem raiseFatalDecode_mem (op : BitVec 7) (n : Nat) : (s.raiseFatalDecode op n).mem = s.mem := rfl
@[simp] theorem raiseFatalDecode_out (op : BitVec 7) (n : Nat) : (s.raiseFatalDecode op n).out = s.out := rfl
@[simp] theorem raiseFatalDecode_params (op : BitVec 7) (n : Nat) : (s.raiseFatalDecode op n).params = s.params := rfl
@[simp] theorem raiseFatalDecode_reg (op : BitVec 7) (n : Nat) (q : Reg) : (s.raiseFatalDecode op n).reg q = s.reg q := rfl
@[simp] theorem raiseFatalDecode_memRead (op : BitVec 7) (n : Nat) (b : Word) : (s.raiseFatalDecode op n).memRead b = s.memRead b := rfl

/-- Lines 1 and 3 of the step, as one update. -/
theorem beginStep_eq : s.beginStep = { s with ctr := s.ctr + 1, pc := s.pc + 1#16 } := rfl

@[simp] theorem beginStep_x : s.beginStep.x = s.x := rfl
@[simp] theorem beginStep_pc : s.beginStep.pc = s.pc + 1#16 := rfl
@[simp] theorem beginStep_halt : s.beginStep.halt = s.halt := rfl
@[simp] theorem beginStep_ctr : s.beginStep.ctr = s.ctr + 1 := rfl
@[simp] theorem beginStep_fatal : s.beginStep.fatal = s.fatal := rfl
@[simp] theorem beginStep_mem : s.beginStep.mem = s.mem := rfl
@[simp] theorem beginStep_out : s.beginStep.out = s.out := rfl
@[simp] theorem beginStep_params : s.beginStep.params = s.params := rfl
@[simp] theorem beginStep_reg (q : Reg) : s.beginStep.reg q = s.reg q := rfl
@[simp] theorem beginStep_memRead (b : Word) : s.beginStep.memRead b = s.memRead b := rfl

end Sys2Proof.Laws
end

