-- ==== Sys2Proof/Laws/Memory.lean ====
section
/-! SUPPORT. The laws of the memory: what a cell reads after a write, that every operation keeps the canonical
form, and that canonical memories with equal contents are equal data. -/

namespace Sys2Proof.Laws

open Sys2Proof Sys2Proof.Machine

/-- The cell of an address (R30). -/
theorem cellOf_eq (p : Params) (a : Word) : cellOf p a = a.toNat % p.memWords := rfl

theorem cellOf_lt {p : Params} (h : 0 < p.memWords) (a : Word) : cellOf p a < p.memWords :=
  Nat.mod_lt _ h

/-- Where `MEM_WORDS` divides 2^16, the reduction of an address sees no difference between a sum in Words and the
sum in numbers (R30, R105). -/
theorem cellOf_add {p : Params} (h : p.memWords ∣ 65536) (a b : Word) :
    cellOf p (a + b) = (a.toNat + b.toNat) % p.memWords := by
  rw [cellOf_eq, BitVec.toNat_add]
  exact Nat.mod_mod_of_dvd _ h

/-- Two addresses of one cell stay so under a common offset. -/
theorem cellOf_add_congr {p : Params} (h : p.memWords ∣ 65536) {a b : Word}
    (hc : cellOf p a = cellOf p b) (n : Word) : cellOf p (a + n) = cellOf p (b + n) := by
  rw [cellOf_add h, cellOf_add h]
  exact Nat.ModEq.add_right n.toNat hc

/-- What parameters that fit the model have: a memory cell, and the opcodes of R57 (log 11). -/
theorem fits_iff (p : Params) : p.fits = true ↔
    p.xlen = 16 ∧ p.nregs = 8 ∧ p.opcBits = 7 ∧ p.numOpcodes = 20 ∧ 0 < p.memWords := by
  simp [Params.fits, and_assoc]

/-! ### Reading after a write: on every list of cells, canonical or not -/

theorem lookupCell_dropCell (l : List (Nat × Word)) (i j : Nat) :
    lookupCell (dropCell l i) j = if j = i then 0#16 else lookupCell l j := by
  induction l with
  | nil => simp [dropCell, lookupCell]
  | cons head rest ih =>
    obtain ⟨cell, w⟩ := head
    by_cases hc : cell = i
    · by_cases hj : j = i
      · subst hj
        simpa [dropCell, hc] using ih
      · have : ¬ i = j := fun h => hj h.symm
        simp [dropCell, lookupCell, hc, hj, ih, this]
    · by_cases hj : j = i
      · have : ¬ cell = j := fun h => hc (h.trans hj)
        subst hj
        simp [dropCell, lookupCell, hc, ih]
      · simp [dropCell, lookupCell, hc, hj, ih]

/-- Inserting a cell that is not listed yet is seen by a read of that cell and by no other. -/
theorem lookupCell_insertCell (l : List (Nat × Word)) (i j : Nat) (v : Word)
    (fresh : ∀ p ∈ l, p.1 ≠ i) :
    lookupCell (insertCell l i v) j = if j = i then v else lookupCell l j := by
  induction l with
  | nil => simp [insertCell, lookupCell, eq_comm]
  | cons head rest ih =>
    obtain ⟨cell, w⟩ := head
    have hc : cell ≠ i := fresh (cell, w) (by simp)
    have ih' := ih fun p hp => fresh p (by simp [hp])
    by_cases hlt : i < cell
    · simp [insertCell, lookupCell, hlt, eq_comm]
    · by_cases hj : j = i
      · subst hj
        simp [insertCell, lookupCell, hlt, hc, ih']
      · simp [insertCell, lookupCell, hlt, hj, ih']

theorem dropCell_fresh (l : List (Nat × Word)) (i : Nat) : ∀ p ∈ dropCell l i, p.1 ≠ i := by
  induction l with
  | nil => simp [dropCell]
  | cons head rest ih =>
    obtain ⟨cell, w⟩ := head
    by_cases hc : cell = i
    · simpa [dropCell, hc] using ih
    · intro p hp
      simp only [dropCell, hc, if_false, List.mem_cons] at hp
      rcases hp with rfl | hp
      · exact hc
      · exact ih p hp

/-- What a cell reads after a write of cell `i`: `v` there, and elsewhere what it read before. -/
theorem read_write (m : Memory) (i j : Nat) (v : Word) :
    (m.write i v).read j = if j = i then v else m.read j := by
  by_cases hv : v = 0#16
  · simp [Memory.write, Memory.read, hv, lookupCell_dropCell]
  · rw [Memory.read, Memory.write, if_neg hv, lookupCell_insertCell _ _ _ _ (dropCell_fresh _ _),
      lookupCell_dropCell]
    by_cases hj : j = i <;> simp [hj, Memory.read]

/-- A read through an address after a write through another (R30, R32). -/
theorem memRead_memWrite (s : State) (a b v : Word) :
    (s.memWrite a v).memRead b = if cellOf s.params b = cellOf s.params a then v else s.memRead b :=
  read_write s.mem (cellOf s.params a) (cellOf s.params b) v

/-! ### The canonical form -/

theorem cellsRise_mono {words low low' : Nat} (h : low' ≤ low) :
    ∀ {l : List (Nat × Word)}, cellsRise words low l = true → cellsRise words low' l = true
  | [], _ => rfl
  | (cell, v) :: rest, hl => by
    simp only [cellsRise, Bool.and_eq_true, decide_eq_true_eq] at hl ⊢
    exact ⟨⟨⟨h.trans hl.1.1.1, hl.1.1.2⟩, hl.1.2⟩, hl.2⟩

theorem cellsRise_dropCell {words : Nat} (i : Nat) :
    ∀ {l : List (Nat × Word)} {low : Nat}, cellsRise words low l = true →
      cellsRise words low (dropCell l i) = true
  | [], _, _ => rfl
  | (cell, v) :: rest, low, hl => by
    simp only [cellsRise, Bool.and_eq_true, decide_eq_true_eq] at hl
    have ih := cellsRise_dropCell i hl.2
    by_cases hc : cell = i
    · simpa [dropCell, hc] using cellsRise_mono (by omega) ih
    · simp only [dropCell, hc, if_false, cellsRise, Bool.and_eq_true, decide_eq_true_eq]
      exact ⟨hl.1, ih⟩

theorem cellsRise_insertCell {words i : Nat} {v : Word} (hi : i < words) (hv : v ≠ 0#16) :
    ∀ {l : List (Nat × Word)} {low : Nat}, cellsRise words low l = true → low ≤ i →
      (∀ p ∈ l, p.1 ≠ i) → cellsRise words low (insertCell l i v) = true
  | [], low, _, hlow, _ => by simp [insertCell, cellsRise, hlow, hi, hv]
  | (cell, w) :: rest, low, hl, hlow, fresh => by
    have hc : cell ≠ i := fresh (cell, w) (by simp)
    simp only [cellsRise, Bool.and_eq_true, decide_eq_true_eq] at hl
    by_cases hlt : i < cell
    · simp only [insertCell, hlt, if_true, cellsRise, Bool.and_eq_true, decide_eq_true_eq]
      exact ⟨⟨⟨hlow, hi⟩, by simp [hv]⟩, ⟨⟨hlt, hl.1.1.2⟩, hl.1.2⟩, hl.2⟩
    · simp only [insertCell, hlt, if_false, cellsRise, Bool.and_eq_true, decide_eq_true_eq]
      exact ⟨hl.1, cellsRise_insertCell hi hv hl.2 (by omega) fun p hp => fresh p (by simp [hp])⟩

/-- A write of an existing cell keeps the canonical form. -/
theorem write_wf {words : Nat} {m : Memory} {i : Nat} (v : Word) (h : m.wf words = true)
    (hi : i < words) : (m.write i v).wf words = true := by
  by_cases hv : v = 0#16
  · simpa [Memory.write, hv, Memory.wf] using cellsRise_dropCell i h
  · simpa [Memory.write, hv, Memory.wf] using
      cellsRise_insertCell hi hv (cellsRise_dropCell i h) (Nat.zero_le i) (dropCell_fresh _ _)

theorem memWrite_wf {s : State} (a v : Word) (hp : 0 < s.params.memWords)
    (h : s.mem.wf s.params.memWords = true) :
    (s.memWrite a v).mem.wf s.params.memWords = true := write_wf v h (cellOf_lt hp a)

/-- The load of an image keeps the canonical form. -/
theorem load_wf {words : Nat} (hp : 0 < words) : ∀ (image : List Word) {m : Memory} (i : Nat),
    m.wf words = true → (m.load words i image).wf words = true
  | [], _, _, h => h
  | w :: rest, _, i, h => load_wf hp rest (i + 1) (write_wf w h (Nat.mod_lt _ hp))

theorem reset_wf (words : Nat) : State.reset.mem.wf words = true := rfl

/-- The trap service keeps the canonical form. -/
theorem trapService_wf {s : State} (hp : 0 < s.params.memWords)
    (h : s.mem.wf s.params.memWords = true) :
    s.trapService.mem.wf s.params.memWords = true := by
  by_cases ht : s.memRead s.params.trapAddr = 0#16
  · simpa [State.trapService, ht] using h
  · simpa [State.trapService, ht] using write_wf 0#16 h (cellOf_lt hp s.params.trapAddr)

/-! ### Equal contents are equal data -/

theorem lookupCell_of_rise {words i : Nat} :
    ∀ {l : List (Nat × Word)} {low : Nat}, cellsRise words low l = true → i < low →
      lookupCell l i = 0#16
  | [], _, _, _ => rfl
  | (cell, v) :: rest, low, hl, hi => by
    simp only [cellsRise, Bool.and_eq_true, decide_eq_true_eq] at hl
    have hc : cell ≠ i := by omega
    simpa [lookupCell, hc] using lookupCell_of_rise hl.2 (by omega)

theorem cells_ext {words words' : Nat} : ∀ {l l' : List (Nat × Word)} {low low' : Nat},
    cellsRise words low l = true → cellsRise words' low' l' = true →
    (∀ i, lookupCell l i = lookupCell l' i) → l = l'
  | [], [], _, _, _, _, _ => rfl
  | [], (cell, v) :: rest, _, _, _, h', heq => by
    simp only [cellsRise, Bool.and_eq_true, decide_eq_true_eq] at h'
    have := heq cell
    simp [lookupCell] at this
    simp [← this] at h'
  | (cell, v) :: rest, [], _, _, h, _, heq => by
    simp only [cellsRise, Bool.and_eq_true, decide_eq_true_eq] at h
    have := heq cell
    simp [lookupCell] at this
    simp [this] at h
  | (cell, v) :: rest, (cell', v') :: rest', low, low', h, h', heq => by
    simp only [cellsRise, Bool.and_eq_true, decide_eq_true_eq, bne_iff_ne, ne_eq] at h h'
    have hcell : cell = cell' := by
      rcases Nat.lt_trichotomy cell cell' with hlt | heq' | hgt
      · have := heq cell
        rw [lookupCell, if_pos rfl, lookupCell, if_neg (by omega),
          lookupCell_of_rise h'.2 (by omega)] at this
        exact absurd this h.1.2
      · exact heq'
      · have := heq cell'
        rw [lookupCell, if_neg (by omega), lookupCell_of_rise h.2 (by omega), lookupCell,
          if_pos rfl] at this
        exact absurd this.symm h'.1.2
    subst hcell
    have hv : v = v' := by simpa [lookupCell] using heq cell
    subst hv
    have hrest : rest = rest' := cells_ext h.2 h'.2 fun i => by
      by_cases hi : cell = i
      · subst hi
        rw [lookupCell_of_rise h.2 (by omega), lookupCell_of_rise h'.2 (by omega)]
      · simpa [lookupCell, hi] using heq i
    rw [hrest]

/-- Two canonical memories that read alike everywhere are the same data. -/
theorem memory_ext {words words' : Nat} {m m' : Memory} (h : m.wf words = true) (h' : m'.wf words' = true)
    (heq : ∀ i, m.read i = m'.read i) : m = m' := by
  cases m; cases m'
  simpa using cells_ext h h' heq

end Sys2Proof.Laws
end

