-- ==== Sys2Proof/Laws/Ops.lean ====
section
/-! SUPPORT. What each shared operation can do, said once: the register file, the end of a meaning, the two ALU
shapes, the trap service. The provers cite these and do not unfold the operations. -/

namespace Sys2Proof.Laws

open Sys2Proof Sys2Proof.Machine

/-- A register after a write of register `r`: no register is hard-wired (R11). -/
theorem reg_setReg (s : State) (r q : Reg) (v : Word) :
    (s.setReg r v).reg q = if q = r then v else s.reg q := by
  cases r <;> cases q <;> rfl

/-- Line 5 of the step (R70): the pc moves once more for a two-word instruction that did not write it, and
nothing else changes. -/
theorem finish_eq (s : State) (words : Nat) (wrotePc : Bool) :
    s.finish words wrotePc =
      { s with pc := if words = 2 ∧ wrotePc = false then s.pc + 1#16 else s.pc } := by
  unfold State.finish
  split
  · rfl
  · rfl

theorem finish_one (s : State) (wrotePc : Bool) : s.finish 1 wrotePc = s := by simp [State.finish]

theorem finish_two (s : State) : s.finish 2 false = s.advancePc := rfl

theorem finish_wrote (s : State) (words : Nat) : s.finish words true = s := by simp [State.finish]

theorem alu3_eq (s : State) (op : Word → Word → Word) (d a b : Reg) :
    s.alu3 op d a b = s.setReg d (op (s.reg a) (s.reg b)) := finish_one _ _

theorem alu2_eq (s : State) (op : Word → Word) (d a : Reg) :
    s.alu2 op d a = s.setReg d (op (s.reg a)) := finish_one _ _

/-- The trap service (R141): without a request it does nothing; with one it appends what the code asks for and
clears the cell. -/
theorem trapService_cases (s : State) :
    (s.memRead s.params.trapAddr = 0#16 ∧ s.trapService = s)
    ∨ (s.memRead s.params.trapAddr ≠ 0#16 ∧ s.trapService =
        (s.emit (serviceOutput s.mem s.params (s.memRead s.params.trapAddr))).memWrite
          s.params.trapAddr 0#16) := by
  by_cases h : s.memRead s.params.trapAddr = 0#16
  · exact .inl ⟨h, by simp [State.trapService, h]⟩
  · exact .inr ⟨h, by simp [State.trapService, h]⟩

/-- The trap service touches memory and OUT alone (R141). -/
theorem trapService_frame (s : State) :
    s.trapService = { s with mem := s.trapService.mem, out := s.trapService.out } := by
  rcases trapService_cases s with ⟨_, h⟩ | ⟨_, h⟩
  · rw [h]
  · rw [h]; rfl

theorem trapService_x (s : State) : s.trapService.x = s.x := by rw [trapService_frame]
theorem trapService_pc (s : State) : s.trapService.pc = s.pc := by rw [trapService_frame]
theorem trapService_halt (s : State) : s.trapService.halt = s.halt := by rw [trapService_frame]
theorem trapService_ctr (s : State) : s.trapService.ctr = s.ctr := by rw [trapService_frame]
theorem trapService_fatal (s : State) : s.trapService.fatal = s.fatal := by rw [trapService_frame]
theorem trapService_params (s : State) : s.trapService.params = s.params := by
  rw [trapService_frame]
theorem trapService_reg (s : State) (q : Reg) : s.trapService.reg q = s.reg q := by
  rw [trapService_frame]; rfl

end Sys2Proof.Laws
end

