-- ==== Sys2Proof/Laws/PerInstr.lean ====
section
/-! SUPPORT. The laws that hold of every instruction as syntax, one lemma per constructor. -/

namespace Sys2Proof

/-- The encoding of an instruction has the length its opcode gives it (R56), and the immediate word stands in
it exactly when the notation of the instruction lists an immediate operand (R55, R62). -/
def Laws.EncodedLength.Statement (i : Instr) : Prop :=
  (encode i).length = i.words
    ∧ i.operands.filterMap (fun o => match o with | .imm v => some v | .reg _ => none)
        = i.immediate.toList

theorem Laws.EncodedLength.halt : Laws.EncodedLength.Statement .halt := ⟨rfl, rfl⟩
theorem Laws.EncodedLength.mv (d a : Reg) : Laws.EncodedLength.Statement (.mv d a) := ⟨rfl, rfl⟩
theorem Laws.EncodedLength.li (d : Reg) (imm : Word) : Laws.EncodedLength.Statement (.li d imm) := ⟨rfl, rfl⟩
theorem Laws.EncodedLength.ldraw (d : Reg) (imm : Word) : Laws.EncodedLength.Statement (.ldraw d imm) := ⟨rfl, rfl⟩
theorem Laws.EncodedLength.ldind (d a : Reg) : Laws.EncodedLength.Statement (.ldind d a) := ⟨rfl, rfl⟩
theorem Laws.EncodedLength.ldio (d a : Reg) (imm : Word) : Laws.EncodedLength.Statement (.ldio d a imm) := ⟨rfl, rfl⟩
theorem Laws.EncodedLength.stio (a : Reg) (imm : Word) (b : Reg) : Laws.EncodedLength.Statement (.stio a imm b) := ⟨rfl, rfl⟩
theorem Laws.EncodedLength.add (d a b : Reg) : Laws.EncodedLength.Statement (.add d a b) := ⟨rfl, rfl⟩
theorem Laws.EncodedLength.sub (d a b : Reg) : Laws.EncodedLength.Statement (.sub d a b) := ⟨rfl, rfl⟩
theorem Laws.EncodedLength.neg (d a : Reg) : Laws.EncodedLength.Statement (.neg d a) := ⟨rfl, rfl⟩
theorem Laws.EncodedLength.xor (d a b : Reg) : Laws.EncodedLength.Statement (.xor d a b) := ⟨rfl, rfl⟩
theorem Laws.EncodedLength.nand (d a b : Reg) : Laws.EncodedLength.Statement (.nand d a b) := ⟨rfl, rfl⟩
theorem Laws.EncodedLength.and (d a b : Reg) : Laws.EncodedLength.Statement (.and d a b) := ⟨rfl, rfl⟩
theorem Laws.EncodedLength.or (d a b : Reg) : Laws.EncodedLength.Statement (.or d a b) := ⟨rfl, rfl⟩
theorem Laws.EncodedLength.not (d a : Reg) : Laws.EncodedLength.Statement (.not d a) := ⟨rfl, rfl⟩
theorem Laws.EncodedLength.j (a : Reg) : Laws.EncodedLength.Statement (.j a) := ⟨rfl, rfl⟩
theorem Laws.EncodedLength.jnz (a : Reg) (imm : Word) : Laws.EncodedLength.Statement (.jnz a imm) := ⟨rfl, rfl⟩
theorem Laws.EncodedLength.jimm (imm : Word) : Laws.EncodedLength.Statement (.jimm imm) := ⟨rfl, rfl⟩
theorem Laws.EncodedLength.addi (d a : Reg) (imm : Word) : Laws.EncodedLength.Statement (.addi d a imm) := ⟨rfl, rfl⟩
theorem Laws.EncodedLength.st (a b : Reg) : Laws.EncodedLength.Statement (.st a b) := ⟨rfl, rfl⟩

end Sys2Proof
end

