-- ==== Sys2Proof/Laws/Step.lean ====
section
/-! SUPPORT. What a step can do, said once (spec/40_sequencer.md R70, R73): from it every property of the step
follows without unfolding the sequencer. -/

namespace Sys2Proof.Laws

open Sys2Proof Sys2Proof.Machine

theorem canStep_iff (s : State) :
    s.canStep = true ↔ s.halt = false ∧ s.fatal = none ∧ s.ctr < s.params.ceiling := by
  simp [State.canStep, and_assoc]

/-- Every meaning answers a next state, from every state: no instruction can fault or refuse (R81a). -/
theorem exec_next (i : Instr) (s : State) : ∃ t, exec i s = .next t := by
  cases i with
  | jnz a imm =>
    by_cases h : isNonZero (s.reg a)
    · exact ⟨(s.setPc imm).finish 2 true, if_pos h⟩
    · exact ⟨s.finish 2 false, if_neg h⟩
  | _ => exact ⟨_, rfl⟩

/-- A step that is taken on a defined instruction: its meaning, then the trap service. -/
theorem step_of_decode {s : State} {i : Instr} {u : State} (h : s.canStep = true)
    (hd : s.fetchDecode = .ok i) (hu : exec i s.beginStep = .next u) :
    step s = .next u.trapService := by
  have hf : s.fatal = none := ((canStep_iff s).1 h).2.1
  simp [step, State.sequencerStep, hf, h, State.runInstruction, hd, hu, thenService]

/-- A step that is taken on an illegal opcode: the fatal decode, and no trap service. -/
theorem step_of_illegal {s : State} {op : BitVec 7} (h : s.canStep = true)
    (hd : s.fetchDecode = .error (.illegalOpcode op)) :
    step s = .next (s.beginStep.raiseFatalDecode op s.ctr) := by
  have hf : s.fatal = none := ((canStep_iff s).1 h).2.1
  simp [step, State.sequencerStep, hf, h, State.runInstruction, hd]

/-- A step of a machine that is stopped without a fatal decode. -/
theorem step_of_stopped {s : State} (hf : s.fatal = none) (h : s.canStep = false) :
    step s = .next s := by
  simp [step, State.sequencerStep, hf, h]

/-- A step of a machine that a fatal decode has stopped. -/
theorem step_of_latched {s : State} {r : FatalRecord} (hf : s.fatal = some r) :
    step s = .fault (.fatalDecode r.opcode r.completed) := by
  simp [step, State.sequencerStep, hf]

/-- If a step answers a next state, one of three things happened. -/
theorem step_cases {s t : State} (h : step s = .next t) :
    (s.fatal = none ∧ s.canStep = false ∧ t = s)
    ∨ (∃ i u, s.canStep = true ∧ s.fetchDecode = .ok i ∧ exec i s.beginStep = .next u
        ∧ t = u.trapService)
    ∨ (∃ op, s.canStep = true ∧ s.fetchDecode = .error (.illegalOpcode op)
        ∧ t = s.beginStep.raiseFatalDecode op s.ctr) := by
  match hf : s.fatal with
  | some r => rw [step_of_latched hf] at h; cases h
  | none =>
    cases hc : s.canStep with
    | false => rw [step_of_stopped hf hc] at h; cases h; exact .inl ⟨rfl, rfl, rfl⟩
    | true =>
      match hd : s.fetchDecode with
      | .ok i =>
        obtain ⟨u, hu⟩ := exec_next i s.beginStep
        rw [step_of_decode hc hd hu] at h
        cases h
        exact .inr (.inl ⟨i, u, rfl, rfl, hu, rfl⟩)
      | .error (.illegalOpcode op) =>
        rw [step_of_illegal hc hd] at h
        cases h
        exact .inr (.inr ⟨op, rfl, rfl, rfl⟩)

end Sys2Proof.Laws
end

