-- ==== Sys2Proof/Laws/Run.lean ====
section
/-! SUPPORT. Runs of the machine behind the host's interface (Host.Core.run), reduced to its step; and the induction
over a run, packaged once. -/

namespace Sys2Proof.Laws

open Sys2Proof Sys2Proof.Machine

/-- A run of no step. -/
theorem run_zero {s t : State} (h : Sys2Proof.core.run 0 s = .next t) : t = s := by
  injection h with h
  exact h.symm

/-- A run goes on from the state its first step answers. -/
theorem run_succ_next {k : Nat} {s s' : State} (h : step s = .next s') :
    Sys2Proof.core.run (k + 1) s = Sys2Proof.core.run k s' := by
  have h' : Sys2Proof.core.step s = .next s' := h
  have hr := Host.Core.run.eq_2 Sys2Proof.core s k
  rw [h'] at hr
  exact hr

/-- A run that answers a state answers one after its first step. -/
theorem run_succ {k : Nat} {s t : State} (h : Sys2Proof.core.run (k + 1) s = .next t) :
    ∃ s', step s = .next s' ∧ Sys2Proof.core.run k s' = .next t := by
  have hr := Host.Core.run.eq_2 Sys2Proof.core s k
  cases hs : step s with
  | next s' => exact ⟨s', rfl, (run_succ_next hs).symm.trans h⟩
  | fault r =>
    have h' : Sys2Proof.core.step s = .fault r := hs
    rw [h', h] at hr
    cases hr
  | refused r =>
    have h' : Sys2Proof.core.step s = .refused r := hs
    rw [h', h] at hr
    cases hr

/-- What every step keeps, every run keeps. -/
theorem run_keeps {P : State → Prop} (keep : ∀ s t, P s → step s = .next t → P t) :
    ∀ (k : Nat) {s t : State}, P s → Sys2Proof.core.run k s = .next t → P t
  | 0, _, _, hs, h => run_zero h ▸ hs
  | k + 1, _, _, hs, h => by
    obtain ⟨s', h1, h2⟩ := run_succ h
    exact run_keeps keep k (keep _ _ hs h1) h2

end Sys2Proof.Laws
end

