-- ==== Sys2Proof/Tests/Slice0.lean ====
section
/-! SUPPORT. The model's own tests. Expected results are taken from spec/95_test_vectors.md (V-…, S…) or from the
example of the rule named; each test is about one step. The witnesses at the end show, for every statement
that has hypotheses, a concrete state and operands that meet them. -/

namespace Sys2Proof.Tests

open Sys2Proof Sys2Proof.Machine

/-- The parameters the vectors are given with: CEILING 1000, every other row of R5 at its default. -/
def testParams : Params := { ceiling := 1000 }

/-- A machine after reset with an image. -/
def machine (image : List Word) : State := State.boot { testParams with image := image }

/-- A small machine with another configuration: 8 cells, trap cell 4, payload from 5, print code 3, reset at 6. -/
def smallMachine (image : List Word) : State :=
  State.boot { memWords := 8, trapAddr := 4#16, payloadBase := 5, trapPrint := 3#16, resetPc := 6#16
               ceiling := 9, image := image }

/-- The state after one step; the state itself where the step answers none. -/
def after (s : State) : State :=
  match step s with
  | .next t => t
  | .fault _ => s
  | .refused _ => s

/-! ### Well-formedness: each check refuses an ill-formed term -/

theorem test_opcode_legal : legalOpcode testParams 0x13#7 = true := by decide
theorem test_opcode_illegal : legalOpcode testParams 0x14#7 = false := by decide
theorem test_params_fit : testParams.fits = true := by decide
theorem test_params_no_memory : ({ testParams with memWords := 0 } : Params).fits = false := by decide
theorem test_params_wide_word : ({ testParams with xlen := 32 } : Params).fits = false := by decide
theorem test_params_more_registers : ({ testParams with nregs := 16 } : Params).fits = false := by decide
theorem test_params_wide_opcode : ({ testParams with opcBits := 8 } : Params).fits = false := by decide
theorem test_params_more_opcodes : ({ testParams with numOpcodes := 21 } : Params).fits = false := by decide
theorem test_image_fits :
    imageFits { testParams with image := List.replicate 32768 1#16 } = true := by
  simp only [imageFits, List.length_replicate]
  decide
theorem test_image_too_long :
    imageFits { testParams with image := List.replicate 32769 1#16 } = false := by
  simp only [imageFits, List.length_replicate]
  decide
theorem test_image_on_trap_cell :
    imageLeavesTrapCell { testParams with trapAddr := 0#16, image := [1#16] } = false := by decide
theorem test_image_from_another_base :
    imageLeavesTrapCell { testParams with memWords := 8, trapAddr := 1#16, resetPc := 6#16,
                                          image := [1#16, 1#16, 1#16, 0#16] } = true
    ∧ imageLeavesTrapCell { testParams with memWords := 8, trapAddr := 1#16, resetPc := 6#16,
                                            image := [1#16, 1#16, 1#16, 7#16] } = false := by decide
theorem test_memory_wf : ({ cells := [(0, 1#16), (32767, 2#16)] } : Memory).wf 32768 = true := by decide
theorem test_memory_falls : ({ cells := [(5, 1#16), (5, 2#16)] } : Memory).wf 32768 = false := by decide
theorem test_memory_lists_zero : ({ cells := [(5, 0#16)] } : Memory).wf 32768 = false := by decide
theorem test_memory_out_of_range : ({ cells := [(32768, 1#16)] } : Memory).wf 32768 = false := by decide

/-! ### Decoding: every constructor, its word written out bit by bit from the encodings of R51 and R57 -/

theorem test_decode_halt : decode 0b0000000000000000#16 0#16 = .ok .halt := by decide
theorem test_decode_halt_noncanonical : decode 0b0000000111111111#16 9#16 = .ok .halt := by decide
theorem test_decode_mv : decode 0b0000001101111011#16 0#16 = .ok (.mv .r3 .r5) := by decide
theorem test_decode_li : decode 0b0000010000000001#16 42#16 = .ok (.li .r1 42#16) := by decide
theorem test_decode_ldraw : decode 0b0000011000000011#16 5#16 = .ok (.ldraw .r3 5#16) := by decide
theorem test_decode_ldind : decode 0b0000100110000010#16 0#16 = .ok (.ldind .r2 .r6) := by decide
theorem test_decode_ldio : decode 0b0000101010000001#16 3#16 = .ok (.ldio .r1 .r2 3#16) := by decide
theorem test_decode_stio : decode 0b0000110010001000#16 2046#16 = .ok (.stio .r2 2046#16 .r1) := by decide
theorem test_decode_add : decode 0b0000111010011001#16 0#16 = .ok (.add .r1 .r2 .r3) := by decide
theorem test_decode_sub : decode 0b0001000010011001#16 0#16 = .ok (.sub .r1 .r2 .r3) := by decide
theorem test_decode_neg : decode 0b0001001101000101#16 0#16 = .ok (.neg .r5 .r5) := by decide
theorem test_decode_xor : decode 0b0001010010011001#16 0#16 = .ok (.xor .r1 .r2 .r3) := by decide
theorem test_decode_nand : decode 0b0001011010011001#16 0#16 = .ok (.nand .r1 .r2 .r3) := by decide
theorem test_decode_and : decode 0b0001100010011001#16 0#16 = .ok (.and .r1 .r2 .r3) := by decide
theorem test_decode_or : decode 0b0001101010011001#16 0#16 = .ok (.or .r1 .r2 .r3) := by decide
theorem test_decode_not : decode 0b0001110001000100#16 0#16 = .ok (.not .r4 .r1) := by decide
theorem test_decode_j : decode 0b0001111111000000#16 0#16 = .ok (.j .r7) := by decide
theorem test_decode_jnz : decode 0b0010000011000000#16 4#16 = .ok (.jnz .r3 4#16) := by decide
theorem test_decode_jimm : decode 0b0010001000000000#16 8#16 = .ok (.jimm 8#16) := by decide
theorem test_decode_addi : decode 0b0010010110000110#16 65535#16 = .ok (.addi .r6 .r6 0xFFFF#16) := by decide
theorem test_decode_st : decode 0b0010011001010000#16 0#16 = .ok (.st .r1 .r2) := by decide
theorem test_decode_illegal_first :
    decode 0b0010100000000000#16 0#16 = .error (.illegalOpcode 0x14#7) := by decide
theorem test_decode_illegal_last :
    decode 0b1111111111111111#16 0#16 = .error (.illegalOpcode 0x7F#7) := by decide
theorem test_encode_stio : encode (.stio .r2 2046#16 .r1) = [0x0C88#16, 0x07FE#16] := by decide
theorem test_table_word_two_words :
    decodeTableWord 32 0x002A0401 = some (.li .r1 42#16) := by decide
theorem test_table_word_short : decodeTableWord 16 0x0401 = some (.li .r1 0#16) := by decide

/-! ### The instructions, one step each -/

/-- V-M1; the ignored field is set as in V-D5. -/
theorem test_mv :
    (after ((machine [0x037B#16]).setReg .r5 0xBEEF#16)).reg .r3 = 0xBEEF#16 ∧ (after ((machine [0x037B#16]).setReg .r5 0xBEEF#16)).pc = 1#16 ∧ (after ((machine [0x037B#16]).setReg .r5 0xBEEF#16)).ctr = 1 := by decide
/-- V-M4: no sign handling. -/
theorem test_li :
    (after (machine [0x0407#16, 0xFFFF#16])).reg .r7 = 0xFFFF#16 ∧ (after (machine [0x0407#16, 0xFFFF#16])).pc = 2#16 := by decide
/-- V-J10: instruction word in cell 32767, immediate in cell 0. -/
theorem test_li_across_the_top :
    (after (((machine [0x0007#16]).memWrite 0x7FFF#16 0x0401#16).setPc 0xFFFF#16)).reg .r1 = 7#16 ∧ (after (((machine [0x0007#16]).memWrite 0x7FFF#16 0x0401#16).setPc 0xFFFF#16)).pc = 1#16 := by decide
/-- V-L2: the address wraps. -/
theorem test_ldraw :
    (after ((machine [0x0603#16, 0x8005#16]).memWrite 5#16 0xBEEF#16)).reg .r3 = 0xBEEF#16 ∧ (after ((machine [0x0603#16, 0x8005#16]).memWrite 5#16 0xBEEF#16)).pc = 2#16 := by decide
/-- V-L4: the address is read before the register is written. -/
theorem test_ldind_same_register :
    (after (((machine [0x0882#16]).memWrite 100#16 9#16).setReg .r2 100#16)).reg .r2 = 9#16 ∧ (after (((machine [0x0882#16]).memWrite 100#16 9#16).setReg .r2 100#16)).pc = 1#16 := by decide
/-- V-L7: the sum wraps modulo 65536. -/
theorem test_ldio :
    (after (((machine [0x0A81#16, 2#16]).memWrite 1#16 2#16).setReg .r2 0xFFFF#16)).reg .r1 = 2#16 ∧ (after (((machine [0x0A81#16, 2#16]).memWrite 1#16 2#16).setReg .r2 0xFFFF#16)).pc = 2#16 := by decide
/-- V-L8: the address 0x8000 is cell 0, which holds the instruction word here. -/
theorem test_ldio_reduces :
    (after ((machine [0x0A81#16, 1#16]).setReg .r2 0x7FFF#16)).reg .r1 = 0x0A81#16 := by decide
/-- V-L10: an offset of 0xFFFF acts as minus 1. -/
theorem test_stio :
    (after (((machine [0x0C88#16, 0xFFFF#16]).setReg .r2 0x65#16).setReg .r1 0x0AAA#16)).memRead 100#16 = 0x0AAA#16 ∧ (after (((machine [0x0C88#16, 0xFFFF#16]).setReg .r2 0x65#16).setReg .r1 0x0AAA#16)).pc = 2#16 := by decide
/-- V-L11: a store to the instruction's own immediate cell. -/
theorem test_stio_own_immediate :
    (after (((machine [0#16, 0#16, 0x0DC0#16, 3#16]).setPc 2#16).setReg .r0 0x1234#16)).memRead 3#16 = 0x1234#16 ∧ (after (((machine [0#16, 0#16, 0x0DC0#16, 3#16]).setPc 2#16).setReg .r0 0x1234#16)).pc = 4#16 := by decide
/-- V-L5: bit 15 of the address is dropped. -/
theorem test_st :
    (after (((machine [0x2650#16]).setReg .r1 0x8005#16).setReg .r2 0xBEEF#16)).memRead 5#16 = 0xBEEF#16 ∧ (after (((machine [0x2650#16]).setReg .r1 0x8005#16).setReg .r2 0xBEEF#16)).pc = 1#16 := by decide
/-- V-T5 with a short string: address 34768 is cell 2000. -/
theorem test_st_alias_of_trap_cell :
    (after (((((machine [0x2640#16]).memWrite 2001#16 0x41#16)).setReg .r0 1#16).setReg .r1 0x87D0#16)).out = [0x41#16] ∧ (after (((((machine [0x2640#16]).memWrite 2001#16 0x41#16)).setReg .r0 1#16).setReg .r1 0x87D0#16)).memRead 2000#16 = 0#16 := by decide
/-- V-A7: the same register three times. -/
theorem test_add :
    (after ((machine [0x0E49#16]).setReg .r1 0x4001#16)).reg .r1 = 0x8002#16 := by decide
/-- V-A5. -/
theorem test_add_wraps :
    (after (((machine [0x0E99#16]).setReg .r2 0xFFFF#16).setReg .r3 0xFFFF#16)).reg .r1 = 0xFFFE#16 ∧ (after (((machine [0x0E99#16]).setReg .r2 0xFFFF#16).setReg .r3 0xFFFF#16)).pc = 1#16 := by decide
/-- V-A4: the minuend is srcA. -/
theorem test_sub :
    (after (((machine [0x1099#16]).setReg .r2 0#16).setReg .r3 1#16)).reg .r1 = 0xFFFF#16 := by decide
/-- V-A3. -/
theorem test_neg :
    (after ((machine [0x1281#16]).setReg .r2 0x8000#16)).reg .r1 = 0x8000#16 := by decide
/-- The example of R112. -/
theorem test_neg_value :
    (after ((machine [0x1345#16]).setReg .r5 0x1234#16)).reg .r5 = 0xEDCC#16 := by decide
/-- V-A1. -/
theorem test_xor :
    (after (((machine [0x1499#16]).setReg .r2 0x1234#16).setReg .r3 0x00FF#16)).reg .r1 = 0x12CB#16 := by decide
/-- V-A1. -/
theorem test_nand :
    (after (((machine [0x1699#16]).setReg .r2 0x1234#16).setReg .r3 0x00FF#16)).reg .r1 = 0xFFCB#16 := by decide
/-- V-A1. -/
theorem test_and :
    (after (((machine [0x1899#16]).setReg .r2 0x1234#16).setReg .r3 0x00FF#16)).reg .r1 = 0x0034#16 := by decide
/-- V-A1. -/
theorem test_or :
    (after (((machine [0x1A99#16]).setReg .r2 0x1234#16).setReg .r3 0x00FF#16)).reg .r1 = 0x12FF#16 := by decide
/-- V-A1. -/
theorem test_not :
    (after ((machine [0x1C81#16]).setReg .r2 0x1234#16)).reg .r1 = 0xEDCB#16 := by decide
/-- V-A9: adding 0xFFFF subtracts 1. -/
theorem test_addi :
    (after ((machine [0x2586#16, 0xFFFF#16]).setReg .r6 5#16)).reg .r6 = 4#16 ∧ (after ((machine [0x2586#16, 0xFFFF#16]).setReg .r6 5#16)).pc = 2#16 := by decide
/-- V-J2: bit 15 of the target is kept. -/
theorem test_j :
    (after ((machine [0x1FC0#16]).setReg .r7 0x8005#16)).pc = 0x8005#16 := by decide
/-- V-J5: the test is on all 16 bits. -/
theorem test_jnz_taken :
    (after ((machine [0x20C0#16, 4#16]).setReg .r3 0x8000#16)).pc = 4#16 := by decide
/-- V-J4, at address 0. -/
theorem test_jnz_not_taken :
    (after (machine [0x20C0#16, 4#16])).pc = 2#16 := by decide
/-- V-J6, at address 0. -/
theorem test_jimm :
    (after (machine [0x2200#16, 8#16])).pc = 8#16 := by decide
/-- V-S1: zero memory is halt. -/
theorem test_halt :
    (after (machine [])).halt = true ∧ (after (machine [])).pc = 1#16 ∧ (after (machine [])).ctr = 1 ∧ (after (machine [])).stopOutcome = some .naturalHalt := by decide
/-- V-T7: the trap service runs in the step of a halt. -/
theorem test_halt_serves_request :
    (after (((machine [0#16]).memWrite 2000#16 1#16).memWrite 2001#16 0x41#16)).out = [0x41#16] ∧ (after (((machine [0#16]).memWrite 2000#16 1#16).memWrite 2001#16 0x41#16)).memRead 2000#16 = 0#16 ∧ (after (((machine [0#16]).memWrite 2000#16 1#16).memWrite 2001#16 0x41#16)).halt = true := by decide

/-! ### The trap service, the sequencer and the fatal decode -/

/-- V-T1: the string is emitted in the step of the store that asks for it. -/
theorem test_print_ok :
    (after ((((machine [0x0DC0#16, 2000#16]).memWrite 2001#16 0x4F#16).memWrite 2002#16 0x4B#16).setReg .r0 1#16)).out = [0x4F#16, 0x4B#16] ∧ (after ((((machine [0x0DC0#16, 2000#16]).memWrite 2001#16 0x4F#16).memWrite 2002#16 0x4B#16).setReg .r0 1#16)).memRead 2000#16 = 0#16 ∧ (after ((((machine [0x0DC0#16, 2000#16]).memWrite 2001#16 0x4F#16).memWrite 2002#16 0x4B#16).setReg .r0 1#16)).memRead 2001#16 = 0x4F#16 := by decide
/-- V-T2: code 7 is ignored and cleared. -/
theorem test_unknown_code :
    (after ((((machine [0x0DC0#16, 2000#16]).memWrite 2001#16 0x4F#16).memWrite 2002#16 0x4B#16).setReg .r0 7#16)).out = [] ∧ (after ((((machine [0x0DC0#16, 2000#16]).memWrite 2001#16 0x4F#16).memWrite 2002#16 0x4B#16).setReg .r0 7#16)).memRead 2000#16 = 0#16 := by decide
/-- V-T4: an invalid code point ends the emission. -/
theorem test_print_stops_at_surrogate :
    (after ((((machine [0x0DC0#16, 2000#16]).memWrite 2001#16 0x48#16).memWrite 2002#16 0xD800#16).setReg .r0 1#16)).out = [0x48#16] ∧ (after ((((machine [0x0DC0#16, 2000#16]).memWrite 2001#16 0x48#16).memWrite 2002#16 0xD800#16).setReg .r0 1#16)).memRead 2000#16 = 0#16 := by decide
/-- V-X2, and V-X5: no trap service in a fatal step. -/
theorem test_fatal_decode :
    (after ((machine [0xFFFF#16]).memWrite 2000#16 1#16)).fatal = some { opcode := 0x7F#7, completed := 0 } ∧ (after ((machine [0xFFFF#16]).memWrite 2000#16 1#16)).ctr = 1 ∧ (after ((machine [0xFFFF#16]).memWrite 2000#16 1#16)).pc = 1#16 ∧ (after ((machine [0xFFFF#16]).memWrite 2000#16 1#16)).out = [] ∧ (after ((machine [0xFFFF#16]).memWrite 2000#16 1#16)).memRead 2000#16 = 1#16 ∧ (after ((machine [0xFFFF#16]).memWrite 2000#16 1#16)).stopOutcome = some .fatalStop := by decide
/-- V-S2: with CEILING 0 nothing executes. -/
theorem test_ceiling_zero :
    (after (State.boot { ceiling := 0, image := [0x0401#16, 5#16] })).ctr = 0 ∧ (after (State.boot { ceiling := 0, image := [0x0401#16, 5#16] })).pc = 0#16 ∧ (after (State.boot { ceiling := 0, image := [0x0401#16, 5#16] })).stopOutcome = some .ceilingReached := by decide
/-- The longest print is cut at the top of memory and does not wrap (R143): a payload in the last two cells. -/
theorem test_print_ends_at_the_top :
    printString { cells := [(0, 5#16), (32766, 6#16), (32767, 7#16)] }
        { testParams with payloadBase := 32766 } = [6#16, 7#16] := by decide
/-- V-R2 in small: the later word of an image that wraps wins (R181). -/
theorem test_load_wraps :
    (({ cells := [] } : Memory).load 32768 32767 [0x3333#16, 0x2222#16]).read 0 = 0x2222#16 := by decide
/-- A step of a machine that a fatal decode has stopped answers its fault (log 4). -/
theorem test_latched_faults :
    (match step (after (machine [0xFFFF#16])) with
      | .fault r => decide (r = .fatalDecode 0x7F#7 0)
      | _ => false) = true := by decide
/-- Another configuration (R5): the image is loaded from cell 6 and wraps into cell 1, the pc starts at 6, and
stio stores request 3 in trap cell 4, which prints the two cells from 5 up to the end of memory. -/
theorem test_other_configuration :
    let s := (smallMachine [0x0DC8#16, 4#16]).setReg .r1 3#16
    s.pc = 6#16 ∧ (after s).memRead 12#16 = 0#16 ∧ (after s).out = [] ∧
    (after (s.memWrite 5#16 0x4F#16)).out = [0x4F#16, 0x0DC8#16, 4#16] := by decide
/-- The placed instruction is the one the next step runs. -/
theorem test_with_fetch_word :
    (after (State.reset.withFetchWord 32 0x002A0401)).reg .r1 = 42#16 := by decide

/-! ### Witnesses: the hypotheses of each statement are met, each clause at a boundary of its range -/

theorem witness_DecodeOfEncodeIsTheInstruction :
    encode (.stio .r7 0xFFFF#16 .r7) = 0x0DF8#16 :: [0xFFFF#16] := by decide
theorem witness_EncodeOfDecodeKeepsTheUsedBits :
    decode 0x27FF#16 1#16 = .ok (.st .r7 .r7) ∧ decode 0x2586#16 0xFFFF#16 = .ok (.addi .r6 .r6 0xFFFF#16) := by decide
theorem witness_UnusedFieldsDoNotMatter :
    decode 0x0343#16 0#16 = .ok (.mv .r3 .r5)
      ∧ 0x0343#16 &&& (Instr.mv .r3 .r5).format.usedBits = 0x037B#16 &&& (Instr.mv .r3 .r5).format.usedBits
      ∧ ((Instr.mv .r3 .r5).words = 2 → (0#16 : Word) = 9#16) := by decide
theorem witness_DispatchIsTotalOverOpcodes :
    (opcodeField 0x27FF#16).toNat < 0x14 ∧ 0x14 ≤ (opcodeField 0x2800#16).toNat
      ∧ decode 0x0000#16 0#16 = .ok .halt ∧ decode 0x01FF#16 1#16 = .ok .halt := by decide
theorem witness_ImmediateWrapsToCellZero :
    testParams.memWords ∣ 65536 ∧ cellOf testParams 0x7FFF#16 = testParams.memWords - 1
      ∧ cellOf testParams 0xFFFF#16 = testParams.memWords - 1 := by decide
theorem witness_MemWriteChangesOneCell :
    (machine []).params.memWords = 32768 := by decide
theorem witness_AddressesWrapModuloMemWords :
    (machine []).params.memWords ∣ 65536 := by decide
theorem witness_ImageLoadLastWriterWins :
    (0 < [7#16].length ∧ [7#16].length ≤ 0 + testParams.memWords)
      ∧ (∀ i < [7#16].length, (testParams.resetPc.toNat + i) % testParams.memWords ≠ 1)
      ∧ (32768 < (List.replicate 32769 1#16).length
        ∧ (List.replicate 32769 1#16).length ≤ 32768 + testParams.memWords)
      ∧ (1 < (List.replicate 32769 1#16).length
        ∧ (List.replicate 32769 1#16).length ≤ 1 + testParams.memWords) := by
  simp only [List.length_replicate]
  decide
theorem witness_BranchExecutes :
    ((machine []).setReg .r3 0x8000#16).reg .r3 ≠ 0#16 ∧ (machine []).reg .r3 = 0#16 := by decide
theorem witness_ExecWritesOnlyItsDestination :
    exec (.st .r1 .r2) (machine []) = .next (machine []) := rfl
theorem witness_StepRunsTheDecodedInstruction :
    (machine [0x0401#16, 42#16]).canStep = true
      ∧ decode ((machine [0x0401#16, 42#16]).memRead 0#16) ((machine [0x0401#16, 42#16]).memRead 1#16)
        = .ok (.li .r1 42#16) := by decide
theorem witness_MoveSteps :
    ((machine [0x037B#16]).canStep = true
        ∧ (machine [0x037B#16]).memRead (machine [0x037B#16]).pc = packWord 0x01#7 Reg.r5.field 7#3 Reg.r3.field)
      ∧ ((machine [0x0401#16]).canStep = true
        ∧ (machine [0x0401#16]).memRead (machine [0x0401#16]).pc = packWord 0x02#7 0#3 0#3 Reg.r1.field) := by decide
theorem witness_LoadSteps :
    ((machine [0x0603#16]).canStep = true
        ∧ (machine [0x0603#16]).memRead (machine [0x0603#16]).pc = packWord 0x03#7 0#3 0#3 Reg.r3.field)
      ∧ ((machine [0x0982#16]).canStep = true
        ∧ (machine [0x0982#16]).memRead (machine [0x0982#16]).pc = packWord 0x04#7 Reg.r6.field 0#3 Reg.r2.field)
      ∧ ((machine [0x0A81#16]).canStep = true
        ∧ (machine [0x0A81#16]).memRead (machine [0x0A81#16]).pc = packWord 0x05#7 Reg.r2.field 0#3 Reg.r1.field) := by decide
theorem witness_StoreSteps :
    ((machine [0x0C88#16]).canStep = true
        ∧ (machine [0x0C88#16]).memRead (machine [0x0C88#16]).pc = packWord 0x06#7 Reg.r2.field Reg.r1.field 0#3)
      ∧ ((machine [0x27FF#16]).canStep = true
        ∧ (machine [0x27FF#16]).memRead (machine [0x27FF#16]).pc = packWord 0x13#7 Reg.r7.field Reg.r7.field 7#3) := by decide
theorem witness_ThreeRegisterSteps :
    ((machine [0x0E99#16]).canStep = true
        ∧ (machine [0x0E99#16]).memRead (machine [0x0E99#16]).pc = packWord 0x07#7 Reg.r2.field Reg.r3.field Reg.r1.field)
      ∧ ((machine [0x11F8#16]).canStep = true
        ∧ (machine [0x11F8#16]).memRead (machine [0x11F8#16]).pc = packWord 0x08#7 Reg.r7.field Reg.r7.field Reg.r0.field)
      ∧ ((machine [0x1499#16]).canStep = true
        ∧ (machine [0x1499#16]).memRead (machine [0x1499#16]).pc = packWord 0x0A#7 Reg.r2.field Reg.r3.field Reg.r1.field)
      ∧ ((machine [0x1699#16]).canStep = true
        ∧ (machine [0x1699#16]).memRead (machine [0x1699#16]).pc = packWord 0x0B#7 Reg.r2.field Reg.r3.field Reg.r1.field)
      ∧ ((machine [0x1899#16]).canStep = true
        ∧ (machine [0x1899#16]).memRead (machine [0x1899#16]).pc = packWord 0x0C#7 Reg.r2.field Reg.r3.field Reg.r1.field)
      ∧ ((machine [0x1A99#16]).canStep = true
        ∧ (machine [0x1A99#16]).memRead (machine [0x1A99#16]).pc = packWord 0x0D#7 Reg.r2.field Reg.r3.field Reg.r1.field) := by decide
theorem witness_OneSourceSteps :
    ((machine [0x1345#16]).canStep = true
        ∧ (machine [0x1345#16]).memRead (machine [0x1345#16]).pc = packWord 0x09#7 Reg.r5.field 0#3 Reg.r5.field)
      ∧ ((machine [0x1C44#16]).canStep = true
        ∧ (machine [0x1C44#16]).memRead (machine [0x1C44#16]).pc = packWord 0x0E#7 Reg.r1.field 0#3 Reg.r4.field)
      ∧ ((machine [0x2586#16]).canStep = true
        ∧ (machine [0x2586#16]).memRead (machine [0x2586#16]).pc = packWord 0x12#7 Reg.r6.field 0#3 Reg.r6.field) := by decide
theorem witness_JumpSteps :
    ((machine [0x1FC0#16]).canStep = true
        ∧ (machine [0x1FC0#16]).memRead (machine [0x1FC0#16]).pc = packWord 0x0F#7 Reg.r7.field 0#3 0#3)
      ∧ ((machine [0x2200#16]).canStep = true
        ∧ (machine [0x2200#16]).memRead (machine [0x2200#16]).pc = packWord 0x11#7 0#3 0#3 0#3) := by decide
theorem witness_BranchSteps :
    ((machine [0x20C0#16]).canStep = true
        ∧ (machine [0x20C0#16]).memRead (machine [0x20C0#16]).pc = packWord 0x10#7 Reg.r3.field 0#3 0#3) := by decide
theorem witness_HaltSteps :
    ((machine [0x01FF#16]).canStep = true
        ∧ (machine [0x01FF#16]).memRead (machine [0x01FF#16]).pc = packWord 0x00#7 7#3 7#3 7#3) := by decide
theorem witness_PcAdvanceLaw :
    (machine [0x20C0#16, 4#16]).canStep = true
      ∧ (machine [0x20C0#16, 4#16]).fetchDecode = .ok (.jnz .r3 4#16)
      ∧ step (machine [0x20C0#16, 4#16])
        = .next { machine [0x20C0#16, 4#16] with ctr := 1, pc := 2#16 } := ⟨by decide, by decide, rfl⟩
/-- The st at 0 overwrites the word at 1, which is fetched next, and the one at 1999 raises a request in the cell
fetched next; the stio at 0 overwrites the immediate at 3 of the instruction at 2. -/
theorem witness_NextFetchSeesTheStore :
    let s := ((machine [0x2650#16]).setReg .r1 1#16).setReg .r2 0x0343#16
    let z := ((((machine []).memWrite 1999#16 0x2650#16).setReg .r1 2000#16).setReg .r2 7#16).setPc 1999#16
    let w := ((machine [0x0C88#16, 2#16, 0x0401#16, 9#16]).setReg .r2 1#16).setReg .r1 5#16
    (s.canStep = true ∧ s.fetchDecode = .ok (.st .r1 .r2)
      ∧ cellOf s.params (after s).pc = cellOf s.params (s.eaIndirect .r1)
      ∧ (after s).fetchWord = 0x0343#16)
    ∧ (z.canStep = true ∧ z.fetchDecode = .ok (.st .r1 .r2)
      ∧ cellOf z.params (after z).pc = cellOf z.params (z.eaIndirect .r1)
      ∧ cellOf z.params (z.eaIndirect .r1) = cellOf z.params z.params.trapAddr
      ∧ (after z).fetchWord = 0#16)
    ∧ (w.canStep = true ∧ w.fetchDecode = .ok (.stio .r2 2#16 .r1)
      ∧ cellOf w.params ((after w).pc + 1#16) = cellOf w.params (w.eaOffset .r2 2#16)
      ∧ (after w).fetchImm = 5#16) := by decide
theorem witness_StepIsTakenExactlyWhenAllowed :
    ((machine []).halt = false ∧ (machine []).fatal = none ∧ (machine []).ctr < (machine []).params.ceiling)
      ∧ ¬((after (machine [])).halt = false ∧ (after (machine [])).fatal = none
        ∧ (after (machine [])).ctr < (after (machine [])).params.ceiling)
      ∧ step (after (machine [])) = .next (after (machine [])) := ⟨by decide, by decide, rfl⟩
theorem witness_StoppedMachineAnswers :
    (after (machine [0x2800#16])).fatal = some { opcode := 0x14#7, completed := 0 }
      ∧ ((after (machine [])).fatal = none ∧ (after (machine [])).halt = true)
      ∧ ({ machine [] with ctr := 1000 } : State).fatal = none
      ∧ ({ machine [] with ctr := 1000 } : State).params.ceiling ≤ 1000 := by decide
theorem witness_FatalDecodeLatchesTheRecord :
    (machine [0x2800#16]).canStep = true
      ∧ (machine [0x2800#16]).memRead (machine [0x2800#16]).pc = packWord 0x14#7 0#3 0#3 0#3
      ∧ 0x14 ≤ (0x14#7).toNat
      ∧ (machine [0xFFFF#16]).memRead (machine [0xFFFF#16]).pc = packWord 0x7F#7 7#3 7#3 7#3
      ∧ (after (machine [0xFFFF#16])).fatal ≠ (machine [0xFFFF#16]).fatal
      ∧ step (machine [0xFFFF#16]) = .next (after (machine [0xFFFF#16])) := ⟨by decide, by decide, by decide, by decide, by decide, rfl⟩
theorem witness_FatalDecodeLeavesTheRestAlone :
    (machine [0x2800#16]).canStep = true
      ∧ 0x14 ≤ (opcodeField ((machine [0x2800#16]).memRead (machine [0x2800#16]).pc)).toNat := by decide
theorem witness_HaltFlagOnlyFromHalt :
    step (machine [0x0200#16]) = .next { machine [0x0200#16] with ctr := 1, pc := 1#16 } := rfl
theorem witness_CounterCountsInstructions :
    step (machine [0x0200#16]) = .next { machine [0x0200#16] with ctr := 1, pc := 1#16 } := rfl
theorem witness_OutputIsAppendOnly :
    step (machine [0x0200#16]) = .next { machine [0x0200#16] with ctr := 1, pc := 1#16 } := rfl
theorem witness_EveryUnfaultedStateSteps :
    State.reset.fatal = none := rfl
theorem witness_StopOutcomesAreExclusive :
    (machine []).Inv := ⟨by decide, by decide, by decide, by decide, by simp [machine, State.boot, State.reset],
    by simp [machine, State.boot, State.reset]⟩
theorem witness_TrapServiceCases :
    (machine []).memRead (machine []).params.trapAddr = 0#16
      ∧ ((machine []).memWrite 2000#16 1#16).memRead (machine []).params.trapAddr ≠ 0#16 := by decide
theorem witness_UnknownTrapCodesAreIgnored :
    let s := (machine []).memWrite 2000#16 2#16
    let t := (machine []).memWrite 2000#16 0xFFFF#16
    (s.memRead s.params.trapAddr ≠ 0#16 ∧ s.memRead s.params.trapAddr ≠ s.params.trapPrint)
    ∧ t.memRead t.params.trapAddr ≠ 0#16 ∧ t.memRead t.params.trapAddr ≠ t.params.trapPrint := by decide
theorem witness_TrapCellIsZeroAfterEveryStep :
    (machine []).memRead (machine []).params.trapAddr = 0#16 ∧ (machine [0x0200#16]).canStep = true
      ∧ (after (machine [0x0200#16])).fatal = none
      ∧ step (machine [0x0200#16]) = .next (after (machine [0x0200#16])) := ⟨by decide, by decide, by decide, rfl⟩
theorem witness_PrintEmitsTheLongestValidRun :
    0 < (printString { cells := [(2001, 79#16)] } testParams).length := by decide
theorem witness_ResetSatisfiesTheInvariant :
    Configuration.standard.toParams.fits = true := by decide
theorem witness_EveryStepKeepsTheInvariant :
    (machine [0x0200#16]).Inv
      ∧ step (machine [0x0200#16]) = .next { machine [0x0200#16] with ctr := 1, pc := 1#16 } := ⟨⟨by decide, by decide, by decide, by decide, by simp [machine, State.boot, State.reset],
    by simp [machine, State.boot, State.reset]⟩, rfl⟩
theorem witness_EveryRunEndsWithinTheCeiling :
    (machine []).params.ceiling ≤ (machine []).ctr + 1000
      ∧ Sys2Proof.core.run 1 (machine []) = .next (after (machine []))
      ∧ (machine []).ctr ≤ (machine []).params.ceiling := ⟨by decide, rfl, by decide⟩
theorem witness_RunsIgnoreBit15OfThePc :
    (machine [0x0200#16]).params.memWords ∣ 32768
      ∧ Sys2Proof.core.run 1 (machine [0x0200#16])
      = .next { machine [0x0200#16] with ctr := 1, pc := 1#16 } := ⟨by decide, rfl⟩

end Sys2Proof.Tests
end

