-- ==== Sys2Proof/Proofs/Memory.lean ====
section
/-! PROOFS. The statements about `MemRead` and `MemWrite` (20_memory.md), from the laws of the memory. -/

namespace Sys2Proof.Proofs

open Sys2Proof Sys2Proof.Machine Sys2Proof.Laws

/-- Where `MEM_WORDS` divides 2^16, adding it to an address stays in the cell, through the wrap of the Word as
well (R30). -/
theorem cellOf_add_memWords {p : Params} (h : p.memWords ∣ 65536) (a : Word) :
    cellOf p (a + BitVec.ofNat 16 p.memWords) = cellOf p a := by
  have size_mod : p.memWords % 65536 % p.memWords = 0 := by
    rw [Nat.mod_mod_of_dvd _ h, Nat.mod_self]
  rw [cellOf_add h, BitVec.toNat_ofNat, Nat.add_mod, size_mod, Nat.add_zero, Nat.mod_mod, cellOf_eq]

/-- A write is read back through every address of its cell (R30, R32). -/
theorem memRead_memWrite_of_cellOf_eq {s : State} {a b : Word} (h : cellOf s.params b = cellOf s.params a)
    (v : Word) : (s.memWrite a v).memRead b = v := by
  rw [memRead_memWrite, if_pos h]

/-- With the 32768 cells of R5, `32768 + 5` and 5 are addresses of one cell (R30). -/
theorem cellOf_five_eq {p : Params} (h : p.memWords = 32768) :
    cellOf p 5#16 = cellOf p (32768#16 + 5#16) := by
  have wrap := cellOf_add_memWords (p := p) (h ▸ by decide) 5#16
  rw [h, BitVec.add_comm] at wrap
  exact wrap.symm

/-- Settles O11: the read is the law of a read after a write, the rest of the state is untouched by the definition
of `MemWrite`, and the last clause reads through the other address of the cell. -/
theorem memWriteChangesOneCell : Obligations.MemWriteChangesOneCell := by
  intro s a b v
  refine ⟨memRead_memWrite s a b v, rfl, fun size => ?_⟩
  exact memRead_memWrite_of_cellOf_eq (cellOf_five_eq size) v

end Sys2Proof.Proofs
end

