-- ==== Sys2Proof/Proofs/Encoding.lean ====
section
/-! PROOFS. The statements about the fields of the instruction word (30_encoding.md): each field as a shift and
a mask, and as a quotient and a remainder of the word's value. -/

namespace Sys2Proof.Proofs

open Sys2Proof

/-- A run of `len` bits from bit `start` on, widened to a Word, is the shift by `start` under a mask of `len`
ones: both are the remainder of the shifted value by `2 ^ len`. -/
theorem setWidth_extractLsb'_eq_shift_and_mask (w : Word) (start : Nat) {len : Nat} (fits : len ≤ 16) :
    (w.extractLsb' start len).setWidth 16 = (w >>> start) &&& BitVec.ofNat 16 (2 ^ len - 1) := by
  have mask_lt : 2 ^ len - 1 < 2 ^ 16 :=
    Nat.lt_of_lt_of_le (Nat.sub_lt (Nat.two_pow_pos len) Nat.one_pos) (Nat.pow_le_pow_right Nat.two_pos fits)
  apply BitVec.eq_of_toNat_eq
  rw [BitVec.toNat_setWidth_of_le fits, BitVec.extractLsb'_toNat, BitVec.toNat_and, BitVec.toNat_ushiftRight,
    BitVec.toNat_ofNat, Nat.mod_eq_of_lt mask_lt, Nat.and_two_pow_sub_one_eq_mod]

/-! The value of each field, by the weights of R51. The opcode needs no remainder: it is the top field. -/

@[simp] theorem toNat_opcodeField (w : Word) : (opcodeField w).toNat = w.toNat / 512 := by
  have word_lt := w.isLt
  rw [opcodeField, BitVec.extractLsb'_toNat, Nat.shiftRight_eq_div_pow]
  omega

@[simp] theorem toNat_srcAField (w : Word) : (srcAField w).toNat = w.toNat / 64 % 8 := by
  rw [srcAField, BitVec.extractLsb'_toNat, Nat.shiftRight_eq_div_pow]

@[simp] theorem toNat_srcBField (w : Word) : (srcBField w).toNat = w.toNat / 8 % 8 := by
  rw [srcBField, BitVec.extractLsb'_toNat, Nat.shiftRight_eq_div_pow]

@[simp] theorem toNat_destField (w : Word) : (destField w).toNat = w.toNat % 8 := by
  rw [destField, BitVec.extractLsb'_toNat, Nat.shiftRight_zero]

/-- The four fields are the digits of the word's value, so they are fixed by any way to write it as a sum of
digits with the weights 2^9, 2^6, 2^3 and 1 (R51). -/
theorem fieldsOf_eq_of_toNat_eq {w : Word} {op : BitVec 7} {a b d : BitVec 3}
    (value : w.toNat = op.toNat * 512 + a.toNat * 64 + b.toNat * 8 + d.toNat) (imm : Word) :
    fieldsOf w imm = { opcode := op, srcA := a, srcB := b, dest := d, imm := imm } := by
  have a_lt := a.isLt
  have b_lt := b.isLt
  have d_lt := d.isLt
  have opcode_eq : opcodeField w = op := BitVec.eq_of_toNat_eq (by rw [toNat_opcodeField]; omega)
  have srcA_eq : srcAField w = a := BitVec.eq_of_toNat_eq (by rw [toNat_srcAField]; omega)
  have srcB_eq : srcBField w = b := BitVec.eq_of_toNat_eq (by rw [toNat_srcBField]; omega)
  have dest_eq : destField w = d := BitVec.eq_of_toNat_eq (by rw [toNat_destField]; omega)
  rw [fieldsOf, opcode_eq, srcA_eq, srcB_eq, dest_eq]

/-- The widths 7, 3, 3 and 3 fill the 16 bits: the weighted sum of four fields is below 2^16, and the Word made
of it keeps its value. -/
theorem toNat_ofNat_weightedSum (op : BitVec 7) (a b d : BitVec 3) :
    (BitVec.ofNat 16 (op.toNat * 512 + a.toNat * 64 + b.toNat * 8 + d.toNat)).toNat =
      op.toNat * 512 + a.toNat * 64 + b.toNat * 8 + d.toNat := by
  have op_lt := op.isLt
  have a_lt := a.isLt
  have b_lt := b.isLt
  have d_lt := d.isLt
  rw [BitVec.toNat_ofNat, Nat.mod_eq_of_lt (by omega)]

/-- Settles O5: each field is one instance of the shift and mask of a run of bits, and the weighted sum is a word
whose digits are the four fields. -/
theorem fieldExtractionIsShiftAndMask : Obligations.FieldExtractionIsShiftAndMask := by
  refine ⟨fun w => ⟨?opcode, ?srcA, ?srcB, ?dest⟩, fun op a b d imm => ?digits⟩
  case opcode => exact setWidth_extractLsb'_eq_shift_and_mask w 9 (by decide)
  case srcA => exact setWidth_extractLsb'_eq_shift_and_mask w 6 (by decide)
  case srcB => exact setWidth_extractLsb'_eq_shift_and_mask w 3 (by decide)
  case dest => simpa [destField] using setWidth_extractLsb'_eq_shift_and_mask w 0 (len := 3) (by decide)
  case digits => exact fieldsOf_eq_of_toNat_eq (toNat_ofNat_weightedSum op a b d) imm

end Sys2Proof.Proofs
end

