-- ==== Sys2Proof/Proofs/Sequencer.lean ====
section
/-! PROOFS. The statements about the dispatch on the opcode (40_sequencer.md R75), from one law that says what the
dispatch can answer. -/

namespace Sys2Proof.Proofs

open Sys2Proof

/-- The mnemonics of R57 in the order of their opcodes: the one numbered `n` is that of opcode `n`, which
`decodeFields_cases` ties to the decoder. -/
def opcodeMnemonics : List String :=
  ["halt", "mv", "li", "ldraw", "ldind", "ldio", "stio", "add", "sub", "neg", "xor", "nand", "and", "or", "not",
    "j", "jnz", "jimm", "addi", "st"]

/-- No two opcodes share a mnemonic. -/
theorem opcodeMnemonics_nodup : opcodeMnemonics.Nodup := by decide

/-- What the dispatch can answer (R75): an instruction with the mnemonic of its opcode, or, for an opcode from
0x14 up, the rejection of that opcode. -/
theorem decodeFields_cases (f : Fields) :
    (∃ i, decodeFields f = .ok i ∧ opcodeMnemonics[f.opcode.toNat]? = some i.mnemonic)
    ∨ (0x14 ≤ f.opcode.toNat ∧ decodeFields f = .error (.illegalOpcode f.opcode)) := by
  unfold decodeFields
  split
  case h_21 =>
    -- The fallback: none of the 20 values before it.
    have illegal : 0x14 ≤ f.opcode.toNat := by
      simp only [imp_false] at *
      omega
    exact .inr ⟨illegal, rfl⟩
  all_goals
    next opcode_eq => exact .inl ⟨_, rfl, by rw [opcode_eq]; rfl⟩

/-- The mnemonic of a decoded word is the one of its opcode. -/
theorem mnemonic_of_decode_eq_ok {w imm : Word} {i : Instr} (decoded : decode w imm = .ok i) :
    opcodeMnemonics[(opcodeField w).toNat]? = some i.mnemonic := by
  rcases decodeFields_cases (fieldsOf w imm) with ⟨i', decoded', mnemonic⟩ | ⟨_, rejected⟩
  · obtain rfl : i' = i := Except.ok.inj (decoded'.symm.trans decoded)
    exact mnemonic
  · exact nomatch rejected.symm.trans decoded

/-- Only opcodes below 0x14 select an instruction: there are 20 mnemonics. -/
theorem opcode_lt_of_decode_eq_ok {w imm : Word} {i : Instr} (decoded : decode w imm = .ok i) :
    (opcodeField w).toNat < 0x14 :=
  (List.getElem?_eq_some_iff.mp (mnemonic_of_decode_eq_ok decoded)).1

/-- An opcode below 0x14 selects an instruction. -/
theorem decode_eq_ok_of_opcode_lt {w : Word} (imm : Word) (legal : (opcodeField w).toNat < 0x14) :
    ∃ i, decode w imm = .ok i := by
  rcases decodeFields_cases (fieldsOf w imm) with ⟨i, decoded, _⟩ | ⟨illegal, _⟩
  · exact ⟨i, decoded⟩
  · exact absurd legal (Nat.not_lt.mpr illegal)

/-- An opcode from 0x14 up is rejected by its value. -/
theorem decode_eq_error_of_le_opcode {w : Word} (imm : Word) (illegal : 0x14 ≤ (opcodeField w).toNat) :
    decode w imm = .error (.illegalOpcode (opcodeField w)) := by
  rcases decodeFields_cases (fieldsOf w imm) with ⟨_, decoded, _⟩ | ⟨_, rejected⟩
  · exact absurd (opcode_lt_of_decode_eq_ok decoded) (Nat.not_lt.mpr illegal)
  · exact rejected

/-- Each opcode has a mnemonic of its own: decoded words agree in the one exactly if they agree in the other. -/
theorem mnemonic_eq_iff_opcodeField_eq {w w' imm imm' : Word} {i i' : Instr} (decoded : decode w imm = .ok i)
    (decoded' : decode w' imm' = .ok i') : i.mnemonic = i'.mnemonic ↔ opcodeField w = opcodeField w' := by
  have mnemonic := mnemonic_of_decode_eq_ok decoded
  have mnemonic' := mnemonic_of_decode_eq_ok decoded'
  calc i.mnemonic = i'.mnemonic
    _ ↔ opcodeMnemonics[(opcodeField w).toNat]? = opcodeMnemonics[(opcodeField w').toNat]? := by
      rw [mnemonic, mnemonic', Option.some_inj]
    _ ↔ (opcodeField w).toNat = (opcodeField w').toNat :=
      List.getElem?_inj (opcode_lt_of_decode_eq_ok decoded) opcodeMnemonics_nodup
    _ ↔ opcodeField w = opcodeField w' := BitVec.toNat_inj

/-- Settles O7: the two answers of the dispatch on either side of 0x14, and the mnemonics without repetition. -/
theorem dispatchIsTotalOverOpcodes : Obligations.DispatchIsTotalOverOpcodes :=
  ⟨fun _ imm => decode_eq_ok_of_opcode_lt imm, fun _ imm => decode_eq_error_of_le_opcode imm,
    fun _ _ _ _ _ _ => mnemonic_eq_iff_opcodeField_eq⟩

end Sys2Proof.Proofs
end

/-! PROOFS. A step of mv and li (41_data_movement.md), from three laws that do not speak of the two instructions: the
fields of a packed word, what the trap service leaves of a state, and the step of an instruction that writes one
register. -/

namespace Sys2Proof.Proofs

open Sys2Proof Sys2Proof.Machine Sys2Proof.Laws

/-! ### Decoding a packed word -/

/-- A field moved `k` bits up inside the Word keeps all its bits. -/
theorem toNat_setWidth_shiftLeft {n k : Nat} (x : BitVec n) (fits : n + k ≤ 16) :
    (x.setWidth 16 <<< k).toNat = x.toNat <<< k := by
  have value_lt : x.toNat <<< k < 2 ^ 16 :=
    calc x.toNat <<< k
      _ = x.toNat * 2 ^ k := Nat.shiftLeft_eq _ _
      _ < 2 ^ n * 2 ^ k := Nat.mul_lt_mul_of_pos_right x.isLt (Nat.two_pow_pos k)
      _ = 2 ^ (n + k) := (Nat.pow_add 2 n k).symm
      _ ≤ 2 ^ 16 := Nat.pow_le_pow_right Nat.two_pos fits
  rw [BitVec.toNat_shiftLeft, BitVec.toNat_setWidth_of_le (by omega), Nat.mod_eq_of_lt value_lt]

/-- Numbers whose bits do not overlap: the lower one fits below the shift of the higher. -/
theorem shiftLeft_or_eq_add {high low k : Nat} (fits : low < 2 ^ k) : high <<< k ||| low = high * 2 ^ k + low := by
  rw [← Nat.shiftLeft_add_eq_or_of_lt fits, Nat.shiftLeft_eq]

/-- The four fields do not overlap, so the word packed of them is their weighted sum (R65). -/
theorem toNat_packWord (op : BitVec 7) (a b d : BitVec 3) :
    (packWord op a b d).toNat = op.toNat * 512 + a.toNat * 64 + b.toNat * 8 + d.toNat := by
  have a_lt := a.isLt
  have b_lt := b.isLt
  have d_lt := d.isLt
  calc (packWord op a b d).toNat
    _ = op.toNat <<< 9 ||| (a.toNat <<< 6 ||| (b.toNat <<< 3 ||| d.toNat)) := by
      rw [packWord, BitVec.toNat_or, BitVec.toNat_or, BitVec.toNat_or, Nat.or_assoc, Nat.or_assoc,
        toNat_setWidth_shiftLeft op (by decide), toNat_setWidth_shiftLeft a (by decide),
        toNat_setWidth_shiftLeft b (by decide), BitVec.toNat_setWidth_of_le (by decide)]
    _ = op.toNat * 2 ^ 9 + (a.toNat * 2 ^ 6 + (b.toNat * 2 ^ 3 + d.toNat)) := by
      rw [shiftLeft_or_eq_add d_lt, shiftLeft_or_eq_add (high := a.toNat) (by omega),
        shiftLeft_or_eq_add (by omega)]
    _ = op.toNat * 512 + a.toNat * 64 + b.toNat * 8 + d.toNat := by omega

/-- The decoder takes a packed word apart into the fields it was packed of (R52, R65). -/
theorem fieldsOf_packWord (op : BitVec 7) (a b d : BitVec 3) (imm : Word) :
    fieldsOf (packWord op a b d) imm = { opcode := op, srcA := a, srcB := b, dest := d, imm := imm } :=
  fieldsOf_eq_of_toNat_eq (toNat_packWord op a b d) imm

/-- So a packed word is dispatched on the fields it was packed of. -/
theorem decode_packWord (op : BitVec 7) (a b d : BitVec 3) (imm : Word) :
    decode (packWord op a b d) imm =
      decodeFields { opcode := op, srcA := a, srcB := b, dest := d, imm := imm } := by
  rw [decode, fieldsOf_packWord]

/-- The field of a register names it. -/
@[simp] theorem regOfField_field (r : Reg) : regOfField r.field = r := by
  cases r <;> rfl

/-- The word of mv, whatever its `srcB` field and the word after it hold (R90). -/
theorem decode_mv (d a : Reg) (b : BitVec 3) (imm : Word) :
    decode (packWord 0x01#7 a.field b d.field) imm = .ok (.mv d a) := by
  simp [decode_packWord, decodeFields]

/-- The words of li, whatever its two source fields hold (R91). -/
theorem decode_li (d : Reg) (a b : BitVec 3) (imm : Word) :
    decode (packWord 0x02#7 a b d.field) imm = .ok (.li d imm) := by
  simp [decode_packWord, decodeFields]

/-- What is fetched is what the word at the pc decodes to, with the word after it as the immediate (R71). -/
theorem fetchDecode_of_word {s : State} {w : Word} {i : Instr} (word : s.memRead s.pc = w)
    (decoded : decode w (s.memRead (s.pc + 1#16)) = .ok i) : s.fetchDecode = .ok i := by
  rw [State.fetchDecode, State.fetchWord, State.fetchImm, word, decoded]

/-! ### What the trap service leaves -/

/-- After the service the trap cell is clear, and every other cell is as before (R141, R146). -/
theorem trapService_memRead (s : State) (a : Word) :
    s.trapService.memRead a =
      if cellOf s.params a = cellOf s.params s.params.trapAddr then 0#16 else s.memRead a := by
  rcases trapService_cases s with ⟨noRequest, served⟩ | ⟨_, served⟩
  · rw [served]
    split
    case isTrue same => rw [← noRequest, State.memRead, State.memRead, same]
    case isFalse => rfl
  · rw [served]
    exact memRead_memWrite (s.emit _) s.params.trapAddr a 0#16

/-- The service appends to OUT what it emits, and nothing without a request (R141). -/
theorem trapService_out (s : State) : s.trapService.out = s.out ++ s.servedOutput := by
  rcases trapService_cases s with ⟨noRequest, served⟩ | ⟨request, served⟩
  · rw [served, State.servedOutput, if_pos noRequest, List.append_nil]
  · rw [served, State.servedOutput, if_neg request]
    rfl

/-- What the service emits depends on the memory and the parameters alone. -/
theorem servedOutput_congr {s u : State} (mem : u.mem = s.mem) (params : u.params = s.params) :
    u.servedOutput = s.servedOutput := by
  rw [State.servedOutput, State.servedOutput, State.memRead, State.memRead, mem, params]

/-- The end of a step of any instruction that completes: where `exec` keeps its frame and leaves the memory of
`u`, the trap service makes of its state what `StepRetires` says (R70). -/
theorem stepRetires_trapService {s u e : State} (unlatched : s.fatal = none) (frame : ExecFrame s.beginStep e)
    (mem : e.mem = u.mem) (params : u.params = s.params) : StepRetires s u e.trapService e.pc := by
  obtain ⟨ctr_eq, fatal_eq, out_eq, params_eq⟩ := frame
  rw [beginStep_params] at params_eq
  refine ⟨?ctr, trapService_pc e, ?fatal, ?params, ?trapCell, ?mem, ?out⟩
  case ctr => rw [trapService_ctr, ctr_eq, beginStep_ctr]
  case fatal => rw [trapService_fatal, fatal_eq, beginStep_fatal, unlatched]
  case params => rw [trapService_params, params_eq]
  case trapCell => rw [trapService_memRead, params_eq, if_pos rfl]
  case mem =>
    intro a other
    rw [params] at other
    rw [trapService_memRead, params_eq, if_neg other, State.memRead, State.memRead, mem, params_eq, params]
  case out =>
    rw [trapService_out, out_eq, beginStep_out, servedOutput_congr mem (params_eq.trans params.symm)]

/-! ### An instruction that writes one register -/

/-- The register file at the end of a meaning: line 5 of the step moves the pc only. -/
@[simp] theorem finish_reg (s : State) (words : Nat) (wrotePc : Bool) (r : Reg) :
    (s.finish words wrotePc).reg r = s.reg r := by
  rw [finish_eq]
  rfl

/-- The pc at the end of a meaning that did not write it is past the immediate word, if there is one (R72). -/
theorem finish_pc (s : State) (words : Nat) :
    (s.finish words false).pc = if words = 2 then s.pc + 1#16 else s.pc := by
  simp [finish_eq]

/-- A meaning that writes `v` to `d` and ends there has changed nothing else but the pc. -/
theorem execWritesReg_setReg_finish (s : State) (d : Reg) (v : Word) (words : Nat) :
    ExecWritesReg s ((s.setReg d v).finish words false) d v (if words = 2 then s.pc + 1#16 else s.pc) where
  result := by rw [finish_reg, reg_setReg, if_pos rfl]
  regs r other := by rw [finish_reg, reg_setReg, if_neg (mt List.mem_singleton.mpr other)]
  mem _ := by rw [finish_eq]; rfl
  pc := finish_pc (s.setReg d v) words
  halt := by rw [finish_eq]; rfl
  rest := by rw [finish_eq]; exact ⟨rfl, rfl, rfl, rfl⟩

/-- The step of an instruction whose meaning writes `v` to `d`: the write is still there after the trap service,
which touches no register, and the pc is one word on from where the step began, or two. -/
theorem step_of_setReg_finish {s : State} {i : Instr} {d : Reg} {v : Word} {words : Nat}
    (allowed : s.canStep = true) (decoded : s.fetchDecode = .ok i)
    (executed : exec i s.beginStep = .next ((s.beginStep.setReg d v).finish words false)) :
    ∃ t, step s = .next t ∧ StepWritesReg s t d v (if words = 2 then s.pc + 2#16 else s.pc + 1#16) := by
  obtain ⟨running, unlatched, _⟩ := (canStep_iff s).mp allowed
  obtain ⟨result, regs, _, pc_eq, halt_eq, frame⟩ := execWritesReg_setReg_finish s.beginStep d v words
  have retires := stepRetires_trapService (u := s) unlatched frame (by rw [finish_eq]; rfl) rfl
  rw [pc_eq, beginStep_pc, BitVec.add_assoc] at retires
  refine ⟨_, step_of_decode allowed decoded executed, ?result, ?regs, ?halt, retires⟩
  case result => rw [trapService_reg, result]
  case regs => exact fun r other => by rw [trapService_reg, regs r other, beginStep_reg]
  case halt => rw [trapService_halt, halt_eq, beginStep_halt, running]

/-! ### The moves -/

/-- mv writes the source register, as it was at the start of the step (R90). -/
theorem exec_mv_beginStep (s : State) (d a : Reg) :
    exec (.mv d a) s.beginStep = .next ((s.beginStep.setReg d (s.reg a)).finish 1 false) := rfl

/-- li writes its immediate (R91). -/
theorem exec_li_beginStep (s : State) (d : Reg) (imm : Word) :
    exec (.li d imm) s.beginStep = .next ((s.beginStep.setReg d imm).finish 2 false) := rfl

/-- Settles O25: each of the two words decodes to its instruction whatever the ignored fields hold, and the meaning
is one register write, of one word and of two. -/
theorem moveSteps : Obligations.MoveSteps := by
  intro s d a b a' allowed
  refine ⟨fun word => ?mv, fun word => ?li⟩
  case mv =>
    have decoded : s.fetchDecode = .ok (.mv d a) := fetchDecode_of_word word (decode_mv d a b _)
    exact step_of_setReg_finish allowed decoded (exec_mv_beginStep s d a)
  case li =>
    have decoded : s.fetchDecode = .ok (.li d (s.memRead (s.pc + 1#16))) :=
      fetchDecode_of_word word (decode_li d a' b _)
    exact step_of_setReg_finish allowed decoded (exec_li_beginStep s d _)

end Sys2Proof.Proofs

/-! PROOFS. A step of the three loads and of the two stores (42_load_store.md). A load is an instruction that writes
one register; a store has the same kind of law, about an instruction that writes one cell. -/

namespace Sys2Proof.Proofs

open Sys2Proof Sys2Proof.Machine Sys2Proof.Laws

/-! ### Decoding the loads and the stores -/

/-- The words of ldraw, whatever its two source fields hold (R100). -/
theorem decode_ldraw (d : Reg) (a b : BitVec 3) (imm : Word) :
    decode (packWord 0x03#7 a b d.field) imm = .ok (.ldraw d imm) := by
  simp [decode_packWord, decodeFields]

/-- The word of ldind, whatever its `srcB` field and the word after it hold (R101). -/
theorem decode_ldind (d a : Reg) (b : BitVec 3) (imm : Word) :
    decode (packWord 0x04#7 a.field b d.field) imm = .ok (.ldind d a) := by
  simp [decode_packWord, decodeFields]

/-- The words of ldio, whatever its `srcB` field holds (R102). -/
theorem decode_ldio (d a : Reg) (b : BitVec 3) (imm : Word) :
    decode (packWord 0x05#7 a.field b d.field) imm = .ok (.ldio d a imm) := by
  simp [decode_packWord, decodeFields]

/-- The words of stio, whatever its `dest` field holds (R103). -/
theorem decode_stio (a b : Reg) (d : BitVec 3) (imm : Word) :
    decode (packWord 0x06#7 a.field b.field d) imm = .ok (.stio a imm b) := by
  simp [decode_packWord, decodeFields]

/-- The word of st, whatever its `dest` field and the word after it hold (R104). -/
theorem decode_st (a b : Reg) (d : BitVec 3) (imm : Word) :
    decode (packWord 0x13#7 a.field b.field d) imm = .ok (.st a b) := by
  simp [decode_packWord, decodeFields]

/-! ### The loads -/

/-- ldraw writes the Word at its immediate (R100). -/
theorem exec_ldraw_beginStep (s : State) (d : Reg) (imm : Word) :
    exec (.ldraw d imm) s.beginStep = .next ((s.beginStep.setReg d (s.memRead imm)).finish 2 false) := rfl

/-- ldind writes the Word at the address in its source register (R101). -/
theorem exec_ldind_beginStep (s : State) (d a : Reg) :
    exec (.ldind d a) s.beginStep = .next ((s.beginStep.setReg d (s.memRead (s.reg a))).finish 1 false) := rfl

/-- ldio writes the Word at the sum of its source register and its immediate (R102). -/
theorem exec_ldio_beginStep (s : State) (d a : Reg) (imm : Word) :
    exec (.ldio d a imm) s.beginStep =
      .next ((s.beginStep.setReg d (s.memRead (s.reg a + imm))).finish 2 false) := rfl

/-- Settles O26: each of the three words decodes to its load whatever the ignored fields hold, and the meaning is one
register write, of the Word that memory held at the start of the step. -/
theorem loadSteps : Obligations.LoadSteps := by
  intro s d a b a' allowed
  refine ⟨fun word => ?ldraw, fun word => ?ldind, fun word => ?ldio⟩
  case ldraw =>
    have decoded : s.fetchDecode = .ok (.ldraw d (s.memRead (s.pc + 1#16))) :=
      fetchDecode_of_word word (decode_ldraw d a' b _)
    exact step_of_setReg_finish allowed decoded (exec_ldraw_beginStep s d _)
  case ldind =>
    have decoded : s.fetchDecode = .ok (.ldind d a) := fetchDecode_of_word word (decode_ldind d a b _)
    exact step_of_setReg_finish allowed decoded (exec_ldind_beginStep s d a)
  case ldio =>
    have decoded : s.fetchDecode = .ok (.ldio d a (s.memRead (s.pc + 1#16))) :=
      fetchDecode_of_word word (decode_ldio d a b _)
    exact step_of_setReg_finish allowed decoded (exec_ldio_beginStep s d a _)

/-! ### An instruction that writes one cell -/

/-- A meaning that writes `v` at `addr` and ends there has changed nothing else but the pc. -/
theorem execStores_memWrite_finish (s : State) (addr v : Word) (words : Nat) :
    ExecStores s ((s.memWrite addr v).finish words false) addr v
      (if words = 2 then s.pc + 1#16 else s.pc) where
  stored := by rw [finish_eq]; exact memRead_memWrite_of_cellOf_eq rfl v
  mem a other := by rw [finish_eq]; exact (memRead_memWrite s addr a v).trans (if_neg other)
  regs _ _ := finish_reg (s.memWrite addr v) words false _
  pc := finish_pc (s.memWrite addr v) words
  halt := by rw [finish_eq]; rfl
  rest := by rw [finish_eq]; exact ⟨rfl, rfl, rfl, rfl⟩

/-- A step that leaves the memory of a write of `v` at `addr` to the trap service ends with the write seen in every
cell but the trap cell, which the service clears (R106). -/
theorem stepStores_of_retires {s t : State} {addr v pc' : Word} (regs : RegsKept [] s t) (running : t.halt = false)
    (retires : StepRetires s (s.memWrite addr v) t pc') : StepStores s t addr v pc' := by
  refine ⟨fun notTrap => ?stored, fun a other notTrap => ?kept, regs, running, retires⟩
  case stored => exact (retires.mem addr notTrap).trans (memRead_memWrite_of_cellOf_eq rfl v)
  case kept => rw [retires.mem a notTrap, memRead_memWrite, if_neg other]

/-- The step of an instruction whose meaning writes `v` at `addr`: the service that follows acts on the memory after
the write, and the pc is one word on from where the step began, or two. -/
theorem step_of_memWrite_finish {s : State} {i : Instr} {addr v : Word} {words : Nat}
    (allowed : s.canStep = true) (decoded : s.fetchDecode = .ok i)
    (executed : exec i s.beginStep = .next ((s.beginStep.memWrite addr v).finish words false)) :
    ∃ t, step s = .next t ∧ StepStores s t addr v (if words = 2 then s.pc + 2#16 else s.pc + 1#16) := by
  obtain ⟨running, unlatched, _⟩ := (canStep_iff s).mp allowed
  obtain ⟨_, _, regs, pc_eq, halt_eq, frame⟩ := execStores_memWrite_finish s.beginStep addr v words
  have retires := stepRetires_trapService (u := s.memWrite addr v) unlatched frame (by rw [finish_eq]; rfl) rfl
  rw [pc_eq, beginStep_pc, BitVec.add_assoc] at retires
  refine ⟨_, step_of_decode allowed decoded executed, stepStores_of_retires ?regs ?halt retires⟩
  case regs => exact fun r other => by rw [trapService_reg, regs r other, beginStep_reg]
  case halt => rw [trapService_halt, halt_eq, beginStep_halt, running]

/-! ### The stores -/

/-- stio writes its data register at the sum of its address register and its immediate (R103). -/
theorem exec_stio_beginStep (s : State) (a : Reg) (imm : Word) (b : Reg) :
    exec (.stio a imm b) s.beginStep =
      .next ((s.beginStep.memWrite (s.eaOffset a imm) (s.reg b)).finish 2 false) := rfl

/-- st writes its data register at the address in its address register (R104). -/
theorem exec_st_beginStep (s : State) (a b : Reg) :
    exec (.st a b) s.beginStep = .next ((s.beginStep.memWrite (s.eaIndirect a) (s.reg b)).finish 1 false) := rfl

/-- Settles O27: each of the two words decodes to its store whatever the ignored field holds, with the immediate that
memory held at the start of the step, and the meaning is one write of a cell. -/
theorem storeSteps : Obligations.StoreSteps := by
  intro s a b d allowed
  refine ⟨fun word => ?stio, fun word => ?st⟩
  case stio =>
    have decoded : s.fetchDecode = .ok (.stio a (s.memRead (s.pc + 1#16)) b) :=
      fetchDecode_of_word word (decode_stio a b d _)
    exact step_of_memWrite_finish allowed decoded (exec_stio_beginStep s a _ b)
  case st =>
    have decoded : s.fetchDecode = .ok (.st a b) := fetchDecode_of_word word (decode_st a b d _)
    exact step_of_memWrite_finish allowed decoded (exec_st_beginStep s a b)

end Sys2Proof.Proofs

/-! PROOFS. A step of the nine ALU instructions (43_arithmetic_logic.md). Each writes one register; two laws say what
their three-register and two-register shapes leave at the end of a step, whatever the operation. -/

namespace Sys2Proof.Proofs

open Sys2Proof Sys2Proof.Machine Sys2Proof.Laws

/-! ### The operations as numbers

The Word of a number is its remainder by 65536: an exact result in numbers, taken as a Word, is the modular one (R7). -/

/-- The sum is that of the numbers, modulo 65536 (R110). -/
theorem aluAdd_eq_ofNat (a b : Word) : aluAdd a b = BitVec.ofNat 16 (a.toNat + b.toNat) :=
  BitVec.add_def a b

/-- The difference is that of the numbers, modulo 65536; the 65536 keeps it from going below 0 (R111). -/
theorem aluSub_eq_ofNat (a b : Word) : aluSub a b = BitVec.ofNat 16 (a.toNat + 65536 - b.toNat) := by
  apply BitVec.eq_of_toNat_eq
  rw [aluSub, BitVec.toNat_sub, BitVec.toNat_ofNat]
  omega

/-- Negation is the difference from 0 (R112). -/
theorem aluNeg_eq_ofNat (a : Word) : aluNeg a = BitVec.ofNat 16 (65536 - a.toNat) := by
  simpa [aluSub, aluNeg] using aluSub_eq_ofNat 0#16 a

/-- The complement is the difference from the Word of 16 ones (R117). -/
theorem aluNot_eq_ofNat (a : Word) : aluNot a = BitVec.ofNat 16 (65535 - a.toNat) := by
  apply BitVec.eq_of_toNat_eq
  rw [aluNot, BitVec.toNat_not, BitVec.toNat_ofNat]
  omega

/-- nand is the complement of the bitwise and (R114). -/
theorem aluNand_eq_ofNat (a b : Word) : aluNand a b = BitVec.ofNat 16 (65535 - (a &&& b).toNat) :=
  aluNot_eq_ofNat (a &&& b)

/-! ### Decoding the ALU instructions -/

/-- The word of add, whatever the word after it holds (R110). -/
theorem decode_add (d a b : Reg) (imm : Word) :
    decode (packWord 0x07#7 a.field b.field d.field) imm = .ok (.add d a b) := by
  simp [decode_packWord, decodeFields]

/-- The word of sub, whatever the word after it holds (R111). -/
theorem decode_sub (d a b : Reg) (imm : Word) :
    decode (packWord 0x08#7 a.field b.field d.field) imm = .ok (.sub d a b) := by
  simp [decode_packWord, decodeFields]

/-- The word of neg, whatever its `srcB` field and the word after it hold (R112). -/
theorem decode_neg (d a : Reg) (b : BitVec 3) (imm : Word) :
    decode (packWord 0x09#7 a.field b d.field) imm = .ok (.neg d a) := by
  simp [decode_packWord, decodeFields]

/-- The word of xor, whatever the word after it holds (R113). -/
theorem decode_xor (d a b : Reg) (imm : Word) :
    decode (packWord 0x0A#7 a.field b.field d.field) imm = .ok (.xor d a b) := by
  simp [decode_packWord, decodeFields]

/-- The word of nand, whatever the word after it holds (R114). -/
theorem decode_nand (d a b : Reg) (imm : Word) :
    decode (packWord 0x0B#7 a.field b.field d.field) imm = .ok (.nand d a b) := by
  simp [decode_packWord, decodeFields]

/-- The word of and, whatever the word after it holds (R115). -/
theorem decode_and (d a b : Reg) (imm : Word) :
    decode (packWord 0x0C#7 a.field b.field d.field) imm = .ok (.and d a b) := by
  simp [decode_packWord, decodeFields]

/-- The word of or, whatever the word after it holds (R116). -/
theorem decode_or (d a b : Reg) (imm : Word) :
    decode (packWord 0x0D#7 a.field b.field d.field) imm = .ok (.or d a b) := by
  simp [decode_packWord, decodeFields]

/-- The word of not, whatever its `srcB` field and the word after it hold (R117). -/
theorem decode_not (d a : Reg) (b : BitVec 3) (imm : Word) :
    decode (packWord 0x0E#7 a.field b d.field) imm = .ok (.not d a) := by
  simp [decode_packWord, decodeFields]

/-- The words of addi, whatever its `srcB` field holds (R118). -/
theorem decode_addi (d a : Reg) (b : BitVec 3) (imm : Word) :
    decode (packWord 0x12#7 a.field b d.field) imm = .ok (.addi d a imm) := by
  simp [decode_packWord, decodeFields]

/-! ### The two shapes -/

/-- The step of an instruction of the three-register shape: the operands are those at the start of the step, since
the advance of the counter and the pc touches no register (R81c). -/
theorem step_of_alu3 (op : Word → Word → Word) {s : State} {w : Word} {i : Instr} {d a b : Reg}
    (allowed : s.canStep = true) (word : s.memRead s.pc = w)
    (decoded : decode w (s.memRead (s.pc + 1#16)) = .ok i)
    (executed : exec i s.beginStep = .next (s.beginStep.alu3 op d a b)) :
    ∃ t, step s = .next t ∧ StepWritesReg s t d (op (s.reg a) (s.reg b)) (s.pc + 1#16) :=
  step_of_setReg_finish allowed (fetchDecode_of_word word decoded) executed

/-- The step of an instruction of the two-register shape. -/
theorem step_of_alu2 (op : Word → Word) {s : State} {w : Word} {i : Instr} {d a : Reg}
    (allowed : s.canStep = true) (word : s.memRead s.pc = w)
    (decoded : decode w (s.memRead (s.pc + 1#16)) = .ok i)
    (executed : exec i s.beginStep = .next (s.beginStep.alu2 op d a)) :
    ∃ t, step s = .next t ∧ StepWritesReg s t d (op (s.reg a)) (s.pc + 1#16) :=
  step_of_setReg_finish allowed (fetchDecode_of_word word decoded) executed

/-- addi writes the sum of its source register and its immediate (R118). -/
theorem exec_addi_beginStep (s : State) (d a : Reg) (imm : Word) :
    exec (.addi d a imm) s.beginStep =
      .next ((s.beginStep.setReg d (aluAdd (s.reg a) imm)).finish 2 false) := rfl

/-! ### The statements -/

/-- Settles O28: each of the six words decodes to its instruction, whose meaning is the three-register shape with its
own operation; where the result is stated as a number, it is the value of that operation. -/
theorem threeRegisterSteps : Obligations.ThreeRegisterSteps := by
  intro s d a b allowed
  refine ⟨fun word => ?add, fun word => ?sub, fun word => ?xor, fun word => ?nand, fun word => ?and,
    fun word => ?or⟩
  case add =>
    rw [← aluAdd_eq_ofNat]
    exact step_of_alu3 aluAdd allowed word (decode_add d a b _) rfl
  case sub =>
    rw [← aluSub_eq_ofNat]
    exact step_of_alu3 aluSub allowed word (decode_sub d a b _) rfl
  case xor => exact step_of_alu3 aluXor allowed word (decode_xor d a b _) rfl
  case nand =>
    rw [← aluNand_eq_ofNat]
    exact step_of_alu3 aluNand allowed word (decode_nand d a b _) rfl
  case and => exact step_of_alu3 aluAnd allowed word (decode_and d a b _) rfl
  case or => exact step_of_alu3 aluOr allowed word (decode_or d a b _) rfl

/-- Settles O29: neg and not have the two-register shape; addi is one register write of two words, with the immediate
that memory held at the start of the step. The ignored field is free in all three. -/
theorem oneSourceSteps : Obligations.OneSourceSteps := by
  intro s d a b allowed
  refine ⟨fun word => ?neg, fun word => ?not, fun word => ?addi⟩
  case neg =>
    rw [← aluNeg_eq_ofNat]
    exact step_of_alu2 aluNeg allowed word (decode_neg d a b _) rfl
  case not =>
    rw [← aluNot_eq_ofNat]
    exact step_of_alu2 aluNot allowed word (decode_not d a b _) rfl
  case addi =>
    have decoded : s.fetchDecode = .ok (.addi d a (s.memRead (s.pc + 1#16))) :=
      fetchDecode_of_word word (decode_addi d a b _)
    rw [← aluAdd_eq_ofNat]
    exact step_of_setReg_finish allowed decoded (exec_addi_beginStep s d a _)

end Sys2Proof.Proofs

/-! PROOFS. A step of j and jimm (44_control_transfer.md), from one law about any instruction that changes at most the
pc and the halt flag. -/

namespace Sys2Proof.Proofs

open Sys2Proof Sys2Proof.Machine Sys2Proof.Laws

/-! ### Decoding the unconditional jumps -/

/-- The word of j, whatever its `srcB` and `dest` fields and the word after it hold (R130). -/
theorem decode_j (a : Reg) (b d : BitVec 3) (imm : Word) :
    decode (packWord 0x0F#7 a.field b d) imm = .ok (.j a) := by
  simp [decode_packWord, decodeFields]

/-- The words of jimm, whatever its three register fields hold (R132). -/
theorem decode_jimm (a b d : BitVec 3) (imm : Word) :
    decode (packWord 0x11#7 a b d) imm = .ok (.jimm imm) := by
  simp [decode_packWord, decodeFields]

/-! ### An instruction that changes at most the pc and the halt flag -/

/-- Where a meaning has changed at most the pc and the halt flag, the service that follows touches neither of them and
no register, and it acts on the memory from the start of the step. -/
theorem stepJumps_trapService {s e : State} {pc' : Word} {halt' : Bool} (unlatched : s.fatal = none)
    (mem : e.mem = s.mem) (jumps : ExecJumps s.beginStep e pc' halt') :
    StepJumps s e.trapService pc' halt' := by
  obtain ⟨regs, _, rfl, halt_eq, frame⟩ := jumps
  refine ⟨?regs, ?halt, stepRetires_trapService unlatched frame mem rfl⟩
  case regs => exact fun r other => by rw [trapService_reg, regs r other, beginStep_reg]
  case halt => rw [trapService_halt, halt_eq]

/-- A meaning that writes `target` to the pc and ends there leaves exactly `target`: line 5 of the step does not move a
written pc (R133). -/
theorem execJumps_setPc_finish (s : State) (target : Word) (words : Nat) :
    ExecJumps s ((s.setPc target).finish words true) target s.halt := by
  rw [finish_wrote]
  exact ⟨fun _ _ => rfl, fun _ => rfl, rfl, rfl, ⟨rfl, rfl, rfl, rfl⟩⟩

/-- The step of an instruction whose meaning writes `target` to the pc: the advance of the pc before the dispatch is
overwritten, whatever the length of the instruction. -/
theorem step_of_setPc_finish {s : State} {i : Instr} {target : Word} {words : Nat}
    (allowed : s.canStep = true) (decoded : s.fetchDecode = .ok i)
    (executed : exec i s.beginStep = .next ((s.beginStep.setPc target).finish words true)) :
    ∃ t, step s = .next t ∧ StepJumps s t target false := by
  obtain ⟨running, unlatched, _⟩ := (canStep_iff s).mp allowed
  have jumps := execJumps_setPc_finish s.beginStep target words
  rw [beginStep_halt, running] at jumps
  exact ⟨_, step_of_decode allowed decoded executed,
    stepJumps_trapService unlatched (by rw [finish_wrote]; rfl) jumps⟩

/-! ### The unconditional jumps -/

/-- j writes its source register, as it was at the start of the step, to the pc (R130). -/
theorem exec_j_beginStep (s : State) (a : Reg) :
    exec (.j a) s.beginStep = .next ((s.beginStep.setPc (s.reg a)).finish 1 true) := rfl

/-- jimm writes its immediate to the pc (R132). -/
theorem exec_jimm_beginStep (s : State) (imm : Word) :
    exec (.jimm imm) s.beginStep = .next ((s.beginStep.setPc imm).finish 2 true) := rfl

/-- Settles O30: each of the two words decodes to its jump whatever the ignored fields hold, and the meaning is one
write of the pc, to the register or to the immediate that memory held at the start of the step. -/
theorem jumpSteps : Obligations.JumpSteps := by
  intro s a a' b d allowed
  refine ⟨fun word => ?j, fun word => ?jimm⟩
  case j =>
    have decoded : s.fetchDecode = .ok (.j a) := fetchDecode_of_word word (decode_j a b d _)
    exact step_of_setPc_finish allowed decoded (exec_j_beginStep s a)
  case jimm =>
    have decoded : s.fetchDecode = .ok (.jimm (s.memRead (s.pc + 1#16))) :=
      fetchDecode_of_word word (decode_jimm a' b d _)
    exact step_of_setPc_finish allowed decoded (exec_jimm_beginStep s _)

end Sys2Proof.Proofs

/-! PROOFS. The statements about the trap service (45_trap_service.md): the request is always consumed, what the
string print emits, and the codes the service ignores. -/

namespace Sys2Proof.Proofs

open Sys2Proof Sys2Proof.Machine Sys2Proof.Laws

/-! ### The trap cell after the service -/

/-- The service clears the trap cell whatever it held (R146). -/
theorem trapService_memRead_trapAddr (s : State) : s.trapService.memRead s.params.trapAddr = 0#16 := by
  rw [trapService_memRead, if_pos rfl]

/-- The service writes no cell but the trap cell (R141). -/
theorem trapService_memKeptBut (s : State) :
    MemKeptBut (cellOf s.params s.params.trapAddr) s s.trapService := by
  intro a other
  rw [trapService_memRead, if_neg other]

/-- Without a request the service does nothing at all (R141). -/
theorem trapService_of_noRequest {s : State} (noRequest : s.memRead s.params.trapAddr = 0#16) :
    s.trapService = s := by
  rcases trapService_cases s with ⟨_, served⟩ | ⟨request, _⟩
  · exact served
  · exact absurd noRequest request

/-- No meaning touches the counter, the latch, the output or the run's parameters; the two branches of jnz are the only
choice a meaning makes (R81). -/
theorem execFrame_of_exec {i : Instr} {s t : State} (executed : exec i s = .next t) : ExecFrame s t := by
  cases i with
  | jnz a imm =>
    by_cases taken : isNonZero (s.reg a)
    · have branch : exec (.jnz a imm) s = .next ((s.setPc imm).finish 2 true) := if_pos taken
      cases branch.symm.trans executed
      exact ⟨rfl, rfl, rfl, rfl⟩
    · have branch : exec (.jnz a imm) s = .next (s.finish 2 false) := if_neg taken
      cases branch.symm.trans executed
      exact ⟨rfl, rfl, rfl, rfl⟩
  | _ =>
    cases executed
    exact ⟨rfl, rfl, rfl, rfl⟩

/-- A step that is taken and raises no fatal decode ends in the service, at the trap address from before the step: the
meaning leaves the parameters alone. -/
theorem memRead_trapAddr_of_step {s t : State} (allowed : s.canStep = true) (stepped : step s = .next t)
    (completed : t.fatal = none) : t.memRead s.params.trapAddr = 0#16 := by
  rcases step_cases stepped with ⟨_, stopped, _⟩ | ⟨i, u, _, _, executed, rfl⟩ | ⟨op, _, _, rfl⟩
  · exact absurd allowed (by simp [stopped])
  · have frame : ExecFrame s.beginStep u := execFrame_of_exec executed
    have params_eq : u.params = s.params := frame.params
    rw [← params_eq]
    exact trapService_memRead_trapAddr u
  · exact absurd completed (by simp)

/-- Settles O46: the service clears the cell, does nothing without a request, and is the last action of every step that
completes. -/
theorem trapCellIsZeroAfterEveryStep : Obligations.TrapCellIsZeroAfterEveryStep :=
  ⟨trapService_memRead_trapAddr, fun _ noRequest => congrArg State.mem (trapService_of_noRequest noRequest),
    fun _ _ => memRead_trapAddr_of_step⟩

/-! ### The string print -/

/-- What the scan does with cells left to read: it ends before a zero or an invalid code point, and otherwise emits the
cell and goes on with the next (R143). -/
theorem scanString_succ_cases (m : Memory) (p : Params) (fuel a : Nat) :
    ((m.read a = 0#16 ∨ validCodePoint p (m.read a) = false) ∧ scanString m p (fuel + 1) a = [])
    ∨ (m.read a ≠ 0#16 ∧ validCodePoint p (m.read a) = true
        ∧ scanString m p (fuel + 1) a = m.read a :: scanString m p fuel (a + 1)) := by
  by_cases zero : m.read a = 0#16
  · exact .inl ⟨.inl zero, by simp [scanString, zero]⟩
  · cases valid : validCodePoint p (m.read a) with
    | false => exact .inl ⟨.inr rfl, by simp [scanString, valid]⟩
    | true => exact .inr ⟨zero, rfl, by simp [scanString, zero, valid]⟩

/-- The code at position `k` of a scan from cell `a` on is that of cell `a + k`, which the scan was allowed to read;
it is non-zero and valid. -/
theorem of_scanString_getElem? (m : Memory) (p : Params) {c : Word} :
    ∀ {fuel a k : Nat}, (scanString m p fuel a)[k]? = some c →
      k < fuel ∧ c = m.read (a + k) ∧ c ≠ 0#16 ∧ validCodePoint p c = true
  | 0, _, _, emitted => by simp [scanString] at emitted
  | fuel + 1, a, k, emitted => by
    rcases scanString_succ_cases m p fuel a with ⟨_, ends⟩ | ⟨nonZero, valid, goesOn⟩
    · simp [ends] at emitted
    · rw [goesOn] at emitted
      cases k with
      | zero =>
        obtain rfl : m.read a = c := by simpa using emitted
        exact ⟨Nat.succ_pos fuel, rfl, nonZero, valid⟩
      | succ k =>
        rw [List.getElem?_cons_succ] at emitted
        obtain ⟨in_fuel, cell, code⟩ := of_scanString_getElem? m p emitted
        exact ⟨Nat.succ_lt_succ in_fuel, by rw [cell, Nat.add_right_comm, Nat.add_assoc], code⟩

/-- A scan is as long as can be: it has read every cell it was allowed to, or the next one is zero or invalid. -/
theorem scanString_maximal (m : Memory) (p : Params) :
    ∀ fuel a : Nat, fuel ≤ (scanString m p fuel a).length
      ∨ m.read (a + (scanString m p fuel a).length) = 0#16
      ∨ validCodePoint p (m.read (a + (scanString m p fuel a).length)) = false
  | 0, _ => .inl (Nat.zero_le _)
  | fuel + 1, a => by
    rcases scanString_succ_cases m p fuel a with ⟨stop, ends⟩ | ⟨_, _, goesOn⟩
    · rw [ends]
      exact .inr stop
    · rw [goesOn, List.length_cons, ← Nat.add_assoc, Nat.add_right_comm]
      exact (scanString_maximal m p fuel (a + 1)).imp_left Nat.succ_le_succ

/-- Settles O47: the print is the scan from `PAYLOAD_BASE` on, allowed to read as many cells as there are up to the
top of memory. -/
theorem printEmitsTheLongestValidRun : Obligations.PrintEmitsTheLongestValidRun := by
  intro m p
  refine ⟨fun k h => ?emitted, ?maximal⟩
  case emitted =>
    obtain ⟨in_memory, cell, nonZero, valid⟩ := of_scanString_getElem? m p (List.getElem?_eq_getElem h)
    rw [← cell]
    exact ⟨by omega, rfl, nonZero, valid⟩
  case maximal =>
    exact (scanString_maximal m p (p.memWords - p.payloadBase) p.payloadBase).imp_left
      Nat.sub_le_iff_le_add'.mp

/-! ### The codes the service ignores -/

/-- For a code that is neither 0 nor the print code the service leaves OUT as it was (R145). -/
theorem trapService_out_of_unknown {s : State} (request : s.memRead s.params.trapAddr ≠ 0#16)
    (unknown : s.memRead s.params.trapAddr ≠ s.params.trapPrint) : s.trapService.out = s.out := by
  rw [trapService_out, State.servedOutput, if_neg request, serviceOutput, if_neg unknown, List.append_nil]

/-- Where the service leaves OUT as it was, it changes nothing but the memory. -/
theorem trapService_with_mem_of_out_eq {s : State} (out_eq : s.trapService.out = s.out) :
    { s.trapService with mem := s.mem } = s := by
  rw [trapService_frame, out_eq]

/-- Settles O45: an ignored code leaves OUT as it was, and the service touches nothing else but the trap cell, which it
clears. -/
theorem unknownTrapCodesAreIgnored : Obligations.UnknownTrapCodesAreIgnored := by
  intro s request unknown
  have out_eq : s.trapService.out = s.out := trapService_out_of_unknown request unknown
  exact ⟨out_eq, trapService_memRead_trapAddr s, trapService_memKeptBut s, trapService_with_mem_of_out_eq out_eq⟩

end Sys2Proof.Proofs

/-! PROOFS. The statement about the load of the image at reset (70_reset_and_hazards.md R180, R181), from two laws of
the load: a cell it does not reach keeps its Word, and a cell it reaches holds the last Word that falls on it. -/

namespace Sys2Proof.Proofs

open Sys2Proof Sys2Proof.Machine Sys2Proof.Laws

/-- Two addresses less than `MEM_WORDS` apart name different cells. -/
theorem add_mod_ne_mod_of_lt {words d : Nat} (a : Nat) (pos : 0 < d) (near : d < words) :
    (a + d) % words ≠ a % words := fun same_cell =>
  Nat.not_dvd_of_pos_of_lt pos near (Nat.add_modEq_left_iff.mp same_cell)

/-- The load leaves a cell on which no Word of the image falls as it was. -/
theorem read_load_of_unreached {words cell : Nat} : ∀ (image : List Word) (m : Memory) (a : Nat),
    (∀ i < image.length, (a + i) % words ≠ cell) → (m.load words a image).read cell = m.read cell
  | [], _, _, _ => rfl
  | w :: rest, m, a, unreached => by
    have not_here : cell ≠ a % words := (unreached 0 (Nat.succ_pos _)).symm
    have not_later : ∀ i < rest.length, (a + 1 + i) % words ≠ cell := fun i hi => by
      rw [Nat.add_right_comm]
      exact unreached (i + 1) (Nat.succ_lt_succ hi)
    calc ((m.write (a % words) w).load words (a + 1) rest).read cell
      _ = (m.write (a % words) w).read cell := read_load_of_unreached rest _ (a + 1) not_later
      _ = m.read cell := by rw [read_write, if_neg not_here]

/-- A Word among the last `MEM_WORDS` of the image is the last writer of its cell: the Words after it go to other
cells (R181). -/
theorem read_load_of_last {words : Nat} : ∀ (image : List Word) (m : Memory) (a i : Nat) (h : i < image.length),
    image.length ≤ i + words → (m.load words a image).read ((a + i) % words) = image[i]
  | w :: rest, m, a, 0, _, last => by
    rw [List.length_cons] at last
    have later_elsewhere : ∀ i < rest.length, (a + 1 + i) % words ≠ a % words := fun i hi => by
      rw [Nat.add_assoc]
      exact add_mod_ne_mod_of_lt a (by omega) (by omega)
    calc ((m.write (a % words) w).load words (a + 1) rest).read (a % words)
      _ = (m.write (a % words) w).read (a % words) := read_load_of_unreached rest _ (a + 1) later_elsewhere
      _ = w := by rw [read_write, if_pos rfl]
  | w :: rest, m, a, i + 1, h, last => by
    rw [List.length_cons] at h last
    have last_of_rest : rest.length ≤ i + words := by omega
    calc ((m.write (a % words) w).load words (a + 1) rest).read ((a + (i + 1)) % words)
      _ = ((m.write (a % words) w).load words (a + 1) rest).read ((a + 1 + i) % words) := by
        rw [Nat.add_right_comm, Nat.add_assoc]
      _ = rest[i] := read_load_of_last rest _ (a + 1) i (Nat.lt_of_succ_lt_succ h) last_of_rest

/-- The memory after reset is the load of the image into a memory that reads 0 everywhere (R22, R180). -/
theorem boot_mem (c : Configuration) :
    (State.boot c).mem = State.reset.mem.load c.memWords c.resetPc.toNat c.image := rfl

@[simp] theorem reset_mem_read (cell : Nat) : State.reset.mem.read cell = 0#16 := rfl

/-- Settles O13: the two laws of the load at the load base `RESET_PC`, into the memory of zeros. -/
theorem imageLoadLastWriterWins : Obligations.ImageLoadLastWriterWins := by
  intro c
  rw [boot_mem]
  refine ⟨fun i h last => ?written, fun cell unreached => ?zero⟩
  case written => exact read_load_of_last c.image _ _ i h last
  case zero => rw [read_load_of_unreached c.image _ _ unreached, reset_mem_read]

end Sys2Proof.Proofs

/-! PROOFS. Decoder and encoder as inverses (30_encoding.md): the encoding of every instruction decodes to it, and
every decoded pair of words is the encoding but for the bits its format ignores. -/

namespace Sys2Proof.Proofs

open Sys2Proof Sys2Proof.Machine Sys2Proof.Laws

/-! ### Decoding what was encoded -/

/-- The word of halt, whatever its three register fields and the word after it hold (R76). -/
theorem decode_halt (a b d : BitVec 3) (imm : Word) : decode (packWord 0x00#7 a b d) imm = .ok .halt := by
  simp [decode_packWord, decodeFields]

/-- The words of jnz, whatever its `srcB` and `dest` fields hold (R131). -/
theorem decode_jnz (a : Reg) (b d : BitVec 3) (imm : Word) :
    decode (packWord 0x10#7 a.field b d) imm = .ok (.jnz a imm) := by
  simp [decode_packWord, decodeFields]

/-- The canonical word of an instruction decodes to it, with its immediate after it or, where it has none, any
word at all: the decoding law of each of the 20 instructions, with zero in the ignored fields. -/
theorem decode_encodeWord (i : Instr) (next : Word) :
    decode (encodeWord i) (i.immediate.toList.headD next) = .ok i := by
  cases i with
  | halt => exact decode_halt _ _ _ _
  | mv d a => exact decode_mv d a _ _
  | li d imm => exact decode_li d _ _ imm
  | ldraw d imm => exact decode_ldraw d _ _ imm
  | ldind d a => exact decode_ldind d a _ _
  | ldio d a imm => exact decode_ldio d a _ imm
  | stio a imm b => exact decode_stio a b _ imm
  | add d a b => exact decode_add d a b _
  | sub d a b => exact decode_sub d a b _
  | neg d a => exact decode_neg d a _ _
  | xor d a b => exact decode_xor d a b _
  | nand d a b => exact decode_nand d a b _
  | and d a b => exact decode_and d a b _
  | or d a b => exact decode_or d a b _
  | not d a => exact decode_not d a _ _
  | j a => exact decode_j a _ _ _
  | jnz a imm => exact decode_jnz a _ _ imm
  | jimm imm => exact decode_jimm _ _ _ imm
  | addi d a imm => exact decode_addi d a _ imm
  | st a b => exact decode_st a b _ _

/-- Settles O2: the encoding is the canonical word and then the immediate, if there is one. -/
theorem decodeOfEncodeIsTheInstruction : Obligations.DecodeOfEncodeIsTheInstruction := by
  intro i w rest next encoded
  obtain ⟨rfl, rfl⟩ : encodeWord i = w ∧ i.immediate.toList = rest := List.cons.inj encoded
  exact decode_encodeWord i next

/-- So no two instructions have the same encoding. -/
theorem encode_injective {i i' : Instr} (same : encode i = encode i') : i = i' := by
  have decoded := decodeOfEncodeIsTheInstruction i _ _ 0#16 rfl
  have decoded' := decodeOfEncodeIsTheInstruction i' _ _ 0#16 same.symm
  exact Except.ok.inj (decoded.symm.trans decoded')

/-! ### Packing -/

/-- A word is packed of its own fields: they partition the 16 bits (R51, R65). -/
theorem packWord_fields (w : Word) :
    packWord (opcodeField w) (srcAField w) (srcBField w) (destField w) = w := by
  apply BitVec.eq_of_toNat_eq
  rw [toNat_packWord, toNat_opcodeField, toNat_srcAField, toNat_srcBField, toNat_destField]
  omega

/-! Each field of a packed word is the one it was packed of. -/

@[simp] theorem opcodeField_packWord (op : BitVec 7) (a b d : BitVec 3) : opcodeField (packWord op a b d) = op :=
  congrArg Fields.opcode (fieldsOf_packWord op a b d 0#16)

@[simp] theorem srcAField_packWord (op : BitVec 7) (a b d : BitVec 3) : srcAField (packWord op a b d) = a :=
  congrArg Fields.srcA (fieldsOf_packWord op a b d 0#16)

@[simp] theorem srcBField_packWord (op : BitVec 7) (a b d : BitVec 3) : srcBField (packWord op a b d) = b :=
  congrArg Fields.srcB (fieldsOf_packWord op a b d 0#16)

@[simp] theorem destField_packWord (op : BitVec 7) (a b d : BitVec 3) : destField (packWord op a b d) = d :=
  congrArg Fields.dest (fieldsOf_packWord op a b d 0#16)

/-- Settles O6: the fields of a packed word are the digits of its value, and so are those of any word. -/
theorem packAndFieldsAreInverse : Obligations.PackAndFieldsAreInverse :=
  ⟨fun op a b d => ⟨opcodeField_packWord op a b d, srcAField_packWord op a b d, srcBField_packWord op a b d,
    destField_packWord op a b d⟩, packWord_fields⟩

/-! A mask acts on each field on its own. -/

theorem opcodeField_and (v w : Word) : opcodeField (v &&& w) = opcodeField v &&& opcodeField w :=
  BitVec.extractLsb'_and

theorem srcAField_and (v w : Word) : srcAField (v &&& w) = srcAField v &&& srcAField w :=
  BitVec.extractLsb'_and

theorem srcBField_and (v w : Word) : srcBField (v &&& w) = srcBField v &&& srcBField w :=
  BitVec.extractLsb'_and

theorem destField_and (v w : Word) : destField (v &&& w) = destField v &&& destField w :=
  BitVec.extractLsb'_and

theorem packWord_and_packWord (op op' : BitVec 7) (a a' b b' d d' : BitVec 3) :
    packWord op a b d &&& packWord op' a' b' d' = packWord (op &&& op') (a &&& a') (b &&& b') (d &&& d') := by
  rw [← packWord_fields (packWord op a b d &&& packWord op' a' b' d')]
  simp only [opcodeField_and, srcAField_and, srcBField_and, destField_and, opcodeField_packWord, srcAField_packWord,
    srcBField_packWord, destField_packWord]

/-! ### Encoding what was decoded -/

/-- The register a field names has that field. -/
@[simp] theorem field_regOfField : ∀ f : BitVec 3, (regOfField f).field = f := by decide

/-- The formats of R55 in the order of the opcodes of R57; `encodesFields_of_decodeFields` ties the list to the decoder. -/
def opcodeFormats : List Format :=
  [.N, .DA, .DI, .DI, .DA, .DAI, .ABI, .DAB, .DAB, .DA, .DAB, .DAB, .DAB, .DAB, .DA, .A, .AI, .I, .DAI, .AB]

/-- What the format of a decoded instruction says of its encoding: the fields that were decoded, with zero where the
format reads none, and the given immediate where the format has one. -/
structure EncodesFields (f : Fields) (i : Instr) : Prop where
  format : opcodeFormats[f.opcode.toNat]? = some i.format
  word : encodeWord i = packWord f.opcode f.srcA f.srcB f.dest &&& i.format.usedBits
  immediate : i.immediate = if i.words = 2 then some f.imm else none

/-- The mask of the `srcA` field of a format: all of it or none (R55). -/
def srcAMask : Format → BitVec 3
  | .DA | .DAB | .AB | .A | .DAI | .ABI | .AI => 7#3
  | .N | .DI | .I => 0#3

/-- The mask of the `srcB` field of a format. -/
def srcBMask : Format → BitVec 3
  | .DAB | .AB | .ABI => 7#3
  | .N | .DA | .A | .DI | .DAI | .AI | .I => 0#3

/-- The mask of the `dest` field of a format. -/
def destMask : Format → BitVec 3
  | .DA | .DAB | .DI | .DAI => 7#3
  | .N | .AB | .A | .ABI | .AI | .I => 0#3

/-- The bits a format reads are whole fields, the opcode in each format among them. -/
theorem usedBits_eq_packWord (f : Format) :
    f.usedBits = packWord 127#7 (srcAMask f) (srcBMask f) (destMask f) := by
  cases f <;> rfl

@[simp] theorem and_allOnes_opcode (op : BitVec 7) : op &&& 127#7 = op := BitVec.and_allOnes
@[simp] theorem and_allOnes_field (f : BitVec 3) : f &&& 7#3 = f := BitVec.and_allOnes

/-- Each of the 20 values that the dispatch accepts answers an instruction that encodes the fields. -/
theorem encodesFields_of_decodeFields {f : Fields} {i : Instr} (decoded : decodeFields f = .ok i) :
    EncodesFields f i := by
  have opcode_value : BitVec.ofNat 7 f.opcode.toNat = f.opcode := by simp
  unfold decodeFields at decoded
  split at decoded
  case h_21 => cases decoded
  all_goals
    next opcode_eq =>
      cases decoded
      refine ⟨by rw [opcode_eq]; rfl, ?_, rfl⟩
      rw [opcode_eq] at opcode_value
      rw [usedBits_eq_packWord, packWord_and_packWord]
      simp [encodeWord, Instr.format, srcAMask, srcBMask, destMask, ← opcode_value]

/-- The same of a pair of words. -/
theorem encodesFields_of_decode {w imm : Word} {i : Instr} (decoded : decode w imm = .ok i) :
    EncodesFields (fieldsOf w imm) i := encodesFields_of_decodeFields decoded

/-- The encoding of a decoded instruction: the word masked with the bits its format reads and, for two words, the
given immediate. -/
theorem encode_of_decode {w imm : Word} {i : Instr} (decoded : decode w imm = .ok i) :
    encode i = (w &&& i.format.usedBits) :: if i.words = 2 then [imm] else [] := by
  obtain ⟨_, word, immediate⟩ := encodesFields_of_decode decoded
  rw [encode, word, immediate, fieldsOf, packWord_fields]
  split <;> rfl

/-- Settles O3: the two clauses are the word and the immediate of the decoded fields. -/
theorem encodeOfDecodeKeepsTheUsedBits : Obligations.EncodeOfDecodeKeepsTheUsedBits := by
  intro w imm i decoded
  obtain ⟨_, word, immediate⟩ := encodesFields_of_decode decoded
  refine ⟨by rw [word, fieldsOf, packWord_fields], fun v has_v => ?same⟩
  case same =>
    rw [immediate, Option.ite_none_right_eq_some] at has_v
    exact (Option.some_inj.mp has_v.2).symm

/-- Every format reads the whole opcode, so words that agree on the bits of a format have the same opcode. -/
theorem opcodeField_eq_of_usedBits {w w' : Word} {f : Format} (agree : w &&& f.usedBits = w' &&& f.usedBits) :
    opcodeField w = opcodeField w' := by
  have opcode_kept : ∀ v : Word, opcodeField (v &&& f.usedBits) = opcodeField v := fun v => by
    rw [opcodeField_and, usedBits_eq_packWord, opcodeField_packWord, and_allOnes_opcode]
  rw [← opcode_kept w, agree, opcode_kept]

/-- Words with the same opcode decode to instructions of the same format (R56). -/
theorem format_eq_of_opcodeField_eq {w w' imm imm' : Word} {i i' : Instr} (decoded : decode w imm = .ok i)
    (decoded' : decode w' imm' = .ok i') (same : opcodeField w = opcodeField w') : i.format = i'.format := by
  have format : opcodeFormats[(opcodeField w).toNat]? = some i.format := (encodesFields_of_decode decoded).format
  have format' : opcodeFormats[(opcodeField w').toNat]? = some i'.format := (encodesFields_of_decode decoded').format
  exact Option.some_inj.mp (format.symm.trans (same ▸ format'))

/-- Settles O4: the second word has the same opcode, so it decodes to an instruction of the same format; the two have
the same encoding, and the encoding fixes the instruction. -/
theorem unusedFieldsDoNotMatter : Obligations.UnusedFieldsDoNotMatter := by
  intro w w' imm imm' i decoded agree same_imm
  have opcode_eq := opcodeField_eq_of_usedBits agree
  obtain ⟨i', decoded'⟩ := decode_eq_ok_of_opcode_lt imm' (opcode_eq ▸ opcode_lt_of_decode_eq_ok decoded)
  have format_eq : i.format = i'.format := format_eq_of_opcodeField_eq decoded decoded' opcode_eq
  have words_eq : i.words = i'.words := congrArg Format.words format_eq
  have encode_eq : encode i' = encode i := by
    rw [encode_of_decode decoded, encode_of_decode decoded', ← format_eq, ← words_eq, agree]
    split
    case isTrue two => rw [same_imm two]
    case isFalse => rfl
  rw [decoded', encode_injective encode_eq]

/-! ### The two thresholds -/

/-- A pair of words decodes exactly where the opcode is below 0x14 (R58). -/
theorem decode_ok_iff (w imm : Word) : (∃ i, decode w imm = .ok i) ↔ (opcodeField w).toNat < 0x14 :=
  ⟨fun ⟨_, decoded⟩ => opcode_lt_of_decode_eq_ok decoded, decode_eq_ok_of_opcode_lt imm⟩

/-- A pair of words is halt exactly where the opcode is 0: the zero word is halt, and no other opcode has its
mnemonic (R57). -/
theorem decode_eq_halt_iff (w imm : Word) : decode w imm = .ok .halt ↔ (opcodeField w).toNat = 0 := by
  have zero_halt := decode_halt 0#3 0#3 0#3 imm
  constructor
  · intro decoded
    rw [(mnemonic_eq_iff_opcodeField_eq decoded zero_halt).mp rfl]
    rfl
  · intro zero
    have opcode_eq : opcodeField w = 0#7 := BitVec.eq_of_toNat_eq zero
    rw [← packWord_fields w, opcode_eq]
    exact decode_halt _ _ _ imm

/-- Settles O8: the opcode is the word's value divided by 512. -/
theorem illegalWordsAreThoseFrom0x2800 : Obligations.IllegalWordsAreThoseFrom0x2800 := by
  intro w imm
  rw [decode_ok_iff, decode_eq_halt_iff, toNat_opcodeField]
  constructor <;> omega

/-! ### Words written out, and the immediate of the last cell -/

/-- Settles O1: the decoder evaluated on the eight words. -/
theorem writtenOutWordsDecode : Obligations.WrittenOutWordsDecode := by
  refine ⟨?_, ?_, ?_, ?_, ?_, ?_, ?_, ?_⟩ <;> rfl

/-- Settles O9: the pc is one below a multiple of `MEM_WORDS`, so the address after it names cell 0. -/
theorem immediateWrapsToCellZero : Obligations.ImmediateWrapsToCellZero := by
  intro s size last
  have size_pos : 0 < s.params.memWords := Nat.pos_of_dvd_of_pos size (by decide)
  have next_cell : cellOf s.params (s.pc + 1#16) = 0 :=
    calc cellOf s.params (s.pc + 1#16)
      _ = (s.pc.toNat + 1) % s.params.memWords := cellOf_add size s.pc 1#16
      _ = (cellOf s.params s.pc + 1) % s.params.memWords := (Nat.mod_add_mod _ _ _).symm
      _ = 0 := by rw [last, Nat.sub_add_cancel size_pos, Nat.mod_self]
  exact ⟨by rw [State.fetchWord, State.memRead, last], by rw [State.fetchImm, State.memRead, next_cell]⟩

end Sys2Proof.Proofs

/-! PROOFS. What each instruction does (40_sequencer.md to 44_control_transfer.md): every meaning is a register write, a
write of one cell, a write of the pc, the halt flag, or nothing, followed by line 5 of the step. -/

namespace Sys2Proof.Proofs

open Sys2Proof Sys2Proof.Machine Sys2Proof.Laws

/-! ### The moves, the loads and the stores -/

/-- Settles O16: both are one register write. -/
theorem movesExecute : Obligations.MovesExecute := fun s d a imm =>
  ⟨⟨_, rfl, execWritesReg_setReg_finish s d (s.reg a) 1⟩, _, rfl, execWritesReg_setReg_finish s d imm 2⟩

/-- Settles O17: each is one register write, of a Word read from the memory before it. -/
theorem loadsExecute : Obligations.LoadsExecute := fun s d a imm =>
  ⟨⟨_, rfl, execWritesReg_setReg_finish s d (s.memRead (s.eaAbsolute imm)) 2⟩,
    ⟨_, rfl, execWritesReg_setReg_finish s d (s.memRead (s.eaIndirect a)) 1⟩,
    _, rfl, execWritesReg_setReg_finish s d (s.memRead (s.eaOffset a imm)) 2⟩

/-- Settles O18: both are one write of a cell. -/
theorem storesExecute : Obligations.StoresExecute := fun s a b imm =>
  ⟨⟨_, rfl, execStores_memWrite_finish s (s.eaOffset a imm) (s.reg b) 2⟩,
    _, rfl, execStores_memWrite_finish s (s.eaIndirect a) (s.reg b) 1⟩

/-! ### The ALU instructions -/

/-- Settles O19: each is one register write, of a Word whose number is that of its ALU operation. -/
theorem arithmeticExecutes : Obligations.ArithmeticExecutes := by
  intro s d a b imm
  refine ⟨⟨_, aluAdd (s.reg a) (s.reg b), rfl, execWritesReg_setReg_finish s d _ 1, ?add⟩,
    ⟨_, aluSub (s.reg a) (s.reg b), rfl, execWritesReg_setReg_finish s d _ 1, ?sub⟩,
    ⟨_, aluNeg (s.reg a), rfl, execWritesReg_setReg_finish s d _ 1, ?neg⟩,
    _, aluAdd (s.reg a) imm, rfl, execWritesReg_setReg_finish s d _ 2, ?addi⟩
  case add => rw [aluAdd_eq_ofNat, BitVec.toNat_ofNat]
  case sub => rw [aluSub_eq_ofNat, BitVec.toNat_ofNat]
  case neg => rw [aluNeg_eq_ofNat, BitVec.toNat_ofNat]
  case addi => rw [aluAdd_eq_ofNat, BitVec.toNat_ofNat]

/-- Settles O20: each is one register write, of a Word whose bits are those of its ALU operation. -/
theorem logicExecutes : Obligations.LogicExecutes := by
  intro s d a b
  refine ⟨⟨_, aluXor (s.reg a) (s.reg b), rfl, execWritesReg_setReg_finish s d _ 1, fun k _ => ?xor⟩,
    ⟨_, aluNand (s.reg a) (s.reg b), rfl, execWritesReg_setReg_finish s d _ 1, fun k in_word => ?nand⟩,
    ⟨_, aluAnd (s.reg a) (s.reg b), rfl, execWritesReg_setReg_finish s d _ 1, fun k _ => ?and⟩,
    ⟨_, aluOr (s.reg a) (s.reg b), rfl, execWritesReg_setReg_finish s d _ 1, fun k _ => ?or⟩,
    _, aluNot (s.reg a), rfl, execWritesReg_setReg_finish s d _ 1, ?not⟩
  case xor => exact BitVec.getLsbD_xor
  case nand => simp [aluNand, aluNot, aluAnd, in_word]
  case and => exact BitVec.getLsbD_and
  case or => exact BitVec.getLsbD_or
  case not => exact BitVec.toNat_not

/-! ### halt and the jumps -/

/-- halt leaves the pc where line 3 of the step has put it (R76). -/
theorem execJumps_setHalt_finish (s : State) : ExecJumps s (s.setHalt.finish 1 false) s.pc true := by
  rw [finish_one]
  exact ⟨fun _ _ => rfl, fun _ => rfl, rfl, rfl, ⟨rfl, rfl, rfl, rfl⟩⟩

/-- A two-word instruction that does nothing of its own moves the pc past its immediate word (R72). -/
theorem execJumps_finish_two (s : State) : ExecJumps s (s.finish 2 false) (s.pc + 1#16) s.halt := by
  rw [finish_two]
  exact ⟨fun _ _ => rfl, fun _ => rfl, rfl, rfl, ⟨rfl, rfl, rfl, rfl⟩⟩

/-- jnz with a register that is not zero writes its immediate to the pc (R131). -/
theorem exec_jnz_of_ne_zero {s : State} {a : Reg} (imm : Word) (nonZero : s.reg a ≠ 0#16) :
    exec (.jnz a imm) s = .next ((s.setPc imm).finish 2 true) :=
  if_pos (bne_iff_ne.mpr nonZero)

/-- jnz with a zero register does nothing of its own (R131, D3). -/
theorem exec_jnz_of_eq_zero {s : State} {a : Reg} (imm : Word) (zero : s.reg a = 0#16) :
    exec (.jnz a imm) s = .next (s.finish 2 false) :=
  if_neg fun taken => bne_iff_ne.mp taken zero

/-- The two answers of jnz. -/
theorem exec_jnz_cases {s t : State} {a : Reg} {imm : Word} (executed : exec (.jnz a imm) s = .next t) :
    (s.reg a ≠ 0#16 ∧ t = (s.setPc imm).finish 2 true) ∨ (s.reg a = 0#16 ∧ t = s.finish 2 false) := by
  by_cases zero : s.reg a = 0#16
  · cases (exec_jnz_of_eq_zero imm zero).symm.trans executed
    exact .inr ⟨zero, rfl⟩
  · cases (exec_jnz_of_ne_zero imm zero).symm.trans executed
    exact .inl ⟨zero, rfl⟩

/-- Settles O15: halt sets the flag and its meaning ends there. -/
theorem haltExecutes : Obligations.HaltExecutes := fun s => ⟨_, rfl, execJumps_setHalt_finish s⟩

/-- Settles O21: both are one write of the pc. -/
theorem jumpsExecute : Obligations.JumpsExecute := fun s a imm =>
  ⟨⟨_, rfl, execJumps_setPc_finish s (s.reg a) 1⟩, _, rfl, execJumps_setPc_finish s imm 2⟩

/-- Settles O22: taken it is one write of the pc, not taken it is the move past the immediate word. -/
theorem branchExecutes : Obligations.BranchExecutes := fun s _ imm =>
  ⟨fun nonZero => ⟨_, exec_jnz_of_ne_zero imm nonZero, execJumps_setPc_finish s imm 2⟩,
    fun zero => ⟨_, exec_jnz_of_eq_zero imm zero, execJumps_finish_two s⟩⟩

/-! ### The frame over all 20 instructions -/

/-- Where line 5 leaves the pc of an instruction that did not write it: as many words further as the instruction has
beyond the first (R72). -/
theorem finish_words_pc (s : State) (i : Instr) :
    (s.finish i.words false).pc = s.pc + BitVec.ofNat 16 (i.words - 1) := by
  rw [finish_pc, Instr.words]
  cases i.format <;> simp [Format.words]

/-- The frame of an instruction whose meaning is one register write. -/
theorem frame_of_setReg_finish {i : Instr} {s t : State} {d : Reg} {v : Word} (executed : exec i s = .next t)
    (meaning : exec i s = .next ((s.setReg d v).finish i.words false)) :
    RegsKept [d] s t ∧ MemKept s t ∧ t.halt = s.halt ∧ t.pc = s.pc + BitVec.ofNat 16 (i.words - 1) := by
  cases meaning.symm.trans executed
  obtain ⟨_, regs, mem, _, halt_eq, _⟩ := execWritesReg_setReg_finish s d v i.words
  exact ⟨regs, mem, halt_eq, finish_words_pc _ i⟩

/-- The frame of an instruction whose meaning is one write of a cell. -/
theorem frame_of_memWrite_finish {i : Instr} {s t : State} {addr v : Word} (executed : exec i s = .next t)
    (meaning : exec i s = .next ((s.memWrite addr v).finish i.words false)) :
    RegsKept [] s t ∧ MemKeptBut (cellOf s.params addr) s t ∧ t.halt = s.halt
      ∧ t.pc = s.pc + BitVec.ofNat 16 (i.words - 1) := by
  cases meaning.symm.trans executed
  obtain ⟨_, mem, regs, _, halt_eq, _⟩ := execStores_memWrite_finish s addr v i.words
  exact ⟨regs, mem, halt_eq, finish_words_pc _ i⟩

/-- The frame of an instruction that changes at most the pc and the halt flag. -/
theorem frame_of_execJumps {s t : State} {pc' : Word} {halt' : Bool} (jumps : ExecJumps s t pc' halt') :
    RegsKept [] s t ∧ MemKept s t ∧ t.halt = halt' :=
  ⟨jumps.regs, jumps.mem, jumps.halt⟩

/-- Settles O23: the frame that no meaning leaves, and for each instruction that of the kind of write it makes. -/
theorem execWritesOnlyItsDestination : Obligations.ExecWritesOnlyItsDestination := by
  intro i s t executed
  refine ⟨execFrame_of_exec executed, ?_⟩
  cases i with
  | halt =>
    cases executed
    obtain ⟨regs, mem, pc_eq, _, _⟩ := execJumps_setHalt_finish s
    exact ⟨regs, mem, pc_eq⟩
  | stio a imm b => exact frame_of_memWrite_finish executed rfl
  | st a b => exact frame_of_memWrite_finish executed rfl
  | j a =>
    cases executed
    exact frame_of_execJumps (execJumps_setPc_finish s (s.reg a) 1)
  | jimm imm =>
    cases executed
    exact frame_of_execJumps (execJumps_setPc_finish s imm 2)
  | jnz a imm =>
    rcases exec_jnz_cases executed with ⟨_, rfl⟩ | ⟨_, rfl⟩
    · exact frame_of_execJumps (execJumps_setPc_finish s imm 2)
    · exact frame_of_execJumps (execJumps_finish_two s)
  | _ => exact frame_of_setReg_finish executed rfl

end Sys2Proof.Proofs

/-! PROOFS. The statements about registers, addresses, reset and the configuration (10_state.md, 20_memory.md,
70_reset_and_hazards.md, 00_scope.md), and the rest of those about the trap service (45_trap_service.md). -/

namespace Sys2Proof.Proofs

open Sys2Proof Sys2Proof.Machine Sys2Proof.Laws

/-! ### Registers and addresses -/

/-- Settles O10: the law of a register after a write; the rest of the state is untouched by definition. -/
theorem registerHoldsWhatIsWritten : Obligations.RegisterHoldsWhatIsWritten := by
  intro s r v
  refine ⟨by rw [reg_setReg, if_pos rfl], fun q other => ?kept, rfl⟩
  case kept => rw [reg_setReg, if_neg (mt List.mem_singleton.mpr other)]

/-- Settles O12: reads and writes see the cell of an address alone, and the cell of a sum of Words is that of the sum
of numbers. -/
theorem addressesWrapModuloMemWords : Obligations.AddressesWrapModuloMemWords := by
  intro s a v imm r size
  have same_cell := cellOf_add_memWords size a
  refine ⟨?read, ?write, rfl, rfl, cellOf_add size (s.reg r) imm⟩
  case read => rw [State.memRead, State.memRead, same_cell]
  case write => rw [State.memWrite, State.memWrite, same_cell]

/-! ### Reset and the configuration -/

/-- Settles O14: reset sets each of these whatever the configuration, and the standard image is empty. -/
theorem resetLeavesTheResetState : Obligations.ResetLeavesTheResetState := by
  refine ⟨fun c => ⟨fun r => ?zero, rfl, rfl, rfl, rfl, rfl, rfl⟩, rfl, rfl⟩
  case zero => cases r <;> rfl

/-- Settles O54: the defaults of the record, read off its definition. -/
theorem defaultConfigurationIsTheTable : Obligations.DefaultConfigurationIsTheTable :=
  ⟨fun _ _ => rfl, fun _ => rfl, rfl⟩

/-- A machine after reset with parameters that fit the model keeps the invariant: its memory is the load of an image,
and nothing has run yet. -/
theorem boot_inv {c : Configuration} (fits : c.toParams.fits = true) : (State.boot c).Inv where
  params := fits
  memory :=
    have ⟨_, _, _, _, size_pos⟩ := (fits_iff c.toParams).mp fits
    load_wf size_pos c.image c.resetPc.toNat (reset_wf c.memWords)
  counter := Nat.zero_le _
  oneStop _ := rfl
  latched _ noRecord := nomatch noRecord
  output _ noCode := nomatch noCode

/-- Settles O50: `State.reset` is reset with the standard configuration, whose parameters fit the model. -/
theorem resetSatisfiesTheInvariant : Obligations.ResetSatisfiesTheInvariant := by
  have reset_eq : State.reset = State.boot Configuration.standard := resetLeavesTheResetState.2.1
  have standard_fits : Configuration.standard.toParams.fits = true :=
    defaultConfigurationIsTheTable.2.1 Config.ceiling
  exact ⟨reset_eq ▸ boot_inv standard_fits, fun _ => boot_inv⟩

/-! ### The trap service -/

/-- Settles O44: the two cases of the service, and its law on the other cells. -/
theorem trapServiceCases : Obligations.TrapServiceCases := by
  intro s
  refine ⟨trapService_of_noRequest, fun request => ?served, trapService_memKeptBut s⟩
  case served =>
    have out_eq := trapService_out s
    rw [State.servedOutput, if_neg request, serviceOutput] at out_eq
    rw [← out_eq]
    exact trapService_frame s

/-- A Word lies in a range exactly if its number does. -/
theorem inRange_iff (r : CodeRange) (c : Word) :
    inRange r c = true ↔ r.lo.toNat ≤ c.toNat ∧ c.toNat ≤ r.hi.toNat := by
  simp [inRange, BitVec.le_def]

/-- A code is invalid exactly if one of the ranges of the run's parameters holds it (R144). -/
theorem validCodePoint_eq_false_iff (p : Params) (c : Word) :
    validCodePoint p c = false ↔ ∃ r ∈ p.invalidCodePoints, r.lo.toNat ≤ c.toNat ∧ c.toNat ≤ r.hi.toNat := by
  simp [validCodePoint, inRange_iff]

/-- Settles O48: the standard parameters have one range, the surrogates. -/
theorem defaultInvalidCodesAreSurrogates : Obligations.DefaultInvalidCodesAreSurrogates := by
  intro c
  have ranges : Params.standard.invalidCodePoints = [Config.surrogates] := rfl
  simp only [validCodePoint_eq_false_iff, ranges, List.mem_singleton, exists_eq_left]
  rfl

/-- The service does not see the pc and does not write it (R141). -/
theorem trapService_setPc (s : State) (p : Word) : (s.setPc p).trapService = s.trapService.setPc p := by
  rcases trapService_cases s with ⟨noRequest, served⟩ | ⟨request, served⟩
  · rw [served]
    exact trapService_of_noRequest noRequest
  · rcases trapService_cases (s.setPc p) with ⟨noRequest, _⟩ | ⟨_, served'⟩
    · exact absurd noRequest request
    · rw [served, served']
      rfl

/-- Line 5 of the step writes the pc alone (R72). -/
theorem finish_eq_setPc (s : State) (words : Nat) (wrotePc : Bool) :
    s.finish words wrotePc = s.setPc (if words = 2 ∧ wrotePc = false then s.pc + 1#16 else s.pc) :=
  finish_eq s words wrotePc

/-- Settles O49: the one writes the pc and the other neither sees nor writes it. -/
theorem advanceAndServiceCommute : Obligations.AdvanceAndServiceCommute := by
  intro s words wrotePc
  rw [finish_eq_setPc, trapService_setPc, finish_eq_setPc, trapService_pc]

end Sys2Proof.Proofs

/-! PROOFS. What a step does with the instruction it has decoded (40_sequencer.md, 44_control_transfer.md): the branch,
halt, the pc after each of the 20 instructions, and the fetch that follows a store. -/

namespace Sys2Proof.Proofs

open Sys2Proof Sys2Proof.Machine Sys2Proof.Laws

/-- Settles O24: every meaning answers a next state, and the step serves it. -/
theorem stepRunsTheDecodedInstruction : Obligations.StepRunsTheDecodedInstruction := by
  intro s i allowed decoded
  obtain ⟨t, executed⟩ := exec_next i s.beginStep
  exact ⟨t, executed, step_of_decode allowed decoded executed⟩

/-! ### The branch and halt -/

/-- The step of an instruction that changes at most the pc and the halt flag. -/
theorem step_of_execJumps {s e : State} {i : Instr} {pc' : Word} {halt' : Bool} (allowed : s.canStep = true)
    (decoded : s.fetchDecode = .ok i) (executed : exec i s.beginStep = .next e) (mem : e.mem = s.mem)
    (jumps : ExecJumps s.beginStep e pc' halt') : ∃ t, step s = .next t ∧ StepJumps s t pc' halt' :=
  have unlatched := ((canStep_iff s).mp allowed).2.1
  ⟨_, step_of_decode allowed decoded executed, stepJumps_trapService unlatched mem jumps⟩

/-- Settles O31: taken, the branch is one write of the pc; not taken, the pc makes its two advances. -/
theorem branchSteps : Obligations.BranchSteps := by
  intro s a b d allowed word
  have decoded : s.fetchDecode = .ok (.jnz a (s.memRead (s.pc + 1#16))) :=
    fetchDecode_of_word word (decode_jnz a b d _)
  by_cases zero : s.reg a = 0#16
  · have jumps := execJumps_finish_two s.beginStep
    rw [beginStep_pc, BitVec.add_assoc, beginStep_halt, ((canStep_iff s).mp allowed).1] at jumps
    rw [if_pos zero]
    exact step_of_execJumps allowed decoded (exec_jnz_of_eq_zero _ zero) rfl jumps
  · rw [if_neg zero]
    exact step_of_setPc_finish allowed decoded (exec_jnz_of_ne_zero _ zero)

/-- A halted machine without a fatal decode has come to its natural halt, wherever its counter stands (R74, D4). -/
theorem stopOutcome_of_halt {s : State} (unlatched : s.fatal = none) (halted : s.halt = true) :
    s.stopOutcome = some .naturalHalt := by
  simp [State.stopOutcome, unlatched, halted]

/-- Settles O32: halt writes the flag alone, and the step goes on to the service. -/
theorem haltSteps : Obligations.HaltSteps := by
  intro s a b d allowed word
  have decoded : s.fetchDecode = .ok .halt := fetchDecode_of_word word (decode_halt a b d _)
  obtain ⟨t, stepped, jumps⟩ :=
    step_of_execJumps allowed decoded rfl (by rw [finish_one]; rfl) (execJumps_setHalt_finish s.beginStep)
  exact ⟨t, stepped, jumps, stopOutcome_of_halt jumps.rest.fatal jumps.halt⟩

/-! ### The pc after a step -/

/-- The pc that the meaning of an instruction leaves: the target of a jump, and otherwise the address after the words
that are left of the instruction. -/
def pcAfter (s : State) : Instr → Word
  | .j a => s.reg a
  | .jimm imm => imm
  | .jnz a imm => if s.reg a = 0#16 then s.pc + 1#16 else imm
  | i => s.pc + BitVec.ofNat 16 (i.words - 1)

/-- The pc after each meaning, from the frame of the instructions that do not write it. -/
theorem exec_pc {i : Instr} {s t : State} (executed : exec i s = .next t) : t.pc = pcAfter s i := by
  obtain ⟨_, frame⟩ := execWritesOnlyItsDestination i s t executed
  cases i with
  | j a => cases executed; exact (execJumps_setPc_finish s (s.reg a) 1).pc
  | jimm imm => cases executed; exact (execJumps_setPc_finish s imm 2).pc
  | jnz a imm =>
    rcases exec_jnz_cases executed with ⟨nonZero, rfl⟩ | ⟨zero, rfl⟩
    · exact (execJumps_setPc_finish s imm 2).pc.trans (if_neg nonZero).symm
    · exact (execJumps_finish_two s).pc.trans (if_pos zero).symm
  | halt =>
    obtain ⟨_, _, pc_eq⟩ := frame
    exact pc_eq.trans (BitVec.add_zero s.pc).symm
  | _ =>
    obtain ⟨_, _, _, pc_eq⟩ := frame
    exact pc_eq

/-- The step of a decoded instruction ends with the pc its meaning leaves: the service does not write it. -/
theorem step_pc {s t : State} {i : Instr} (allowed : s.canStep = true) (decoded : s.fetchDecode = .ok i)
    (stepped : step s = .next t) : t.pc = pcAfter s.beginStep i := by
  obtain ⟨u, executed⟩ := exec_next i s.beginStep
  cases (step_of_decode allowed decoded executed).symm.trans stepped
  rw [trapService_pc, exec_pc executed]

/-- Settles O33: the pc that the meaning leaves, counted from the address of the instruction. -/
theorem pcAdvanceLaw : Obligations.PcAdvanceLaw := by
  intro s t i allowed decoded stepped
  have two : s.pc + 1#16 + 1#16 = s.pc + 2#16 := BitVec.add_assoc ..
  rw [step_pc allowed decoded stepped]
  cases i with
  | j a => rfl
  | jimm imm => rfl
  | jnz a imm => exact congrArg (ite _ · imm) two
  | li | ldraw | ldio | stio | addi => exact two
  | _ => exact BitVec.add_zero _

/-! ### The fetch after a store -/

/-- After a store, any read of the stored cell gets the Word stored, or 0 from the trap cell. -/
theorem memRead_of_stepStores {s t : State} {addr v pc' a : Word} (stores : StepStores s t addr v pc')
    (same : cellOf s.params a = cellOf s.params addr) :
    t.memRead a = if cellOf s.params addr = cellOf s.params s.params.trapAddr then 0#16 else v := by
  have params_eq : t.params = s.params := stores.rest.params
  have at_cell : ∀ b, cellOf s.params a = cellOf s.params b → t.memRead a = t.memRead b := fun b same_cell => by
    rw [State.memRead, State.memRead, params_eq, same_cell]
  split
  case isTrue trap => rw [at_cell _ (same.trans trap), stores.rest.trapCell]
  case isFalse notTrap => rw [at_cell _ same, stores.stored notTrap]

/-- So both reads of the next fetch see the store. -/
theorem fetchSees_of_stepStores {s t : State} {addr v pc' : Word} (stores : StepStores s t addr v pc') :
    FetchSees s t addr v :=
  ⟨memRead_of_stepStores stores, memRead_of_stepStores stores⟩

/-- Settles O34: both instructions are one write of a cell. -/
theorem nextFetchSeesTheStore : Obligations.NextFetchSeesTheStore := by
  intro s a b imm allowed
  refine ⟨fun decoded => ?st, fun decoded => ?stio⟩
  case st =>
    obtain ⟨t, stepped, stores⟩ := step_of_memWrite_finish allowed decoded (exec_st_beginStep s a b)
    exact ⟨t, stepped, stores.rest.pc, fetchSees_of_stepStores stores⟩
  case stio =>
    obtain ⟨t, stepped, stores⟩ := step_of_memWrite_finish allowed decoded (exec_stio_beginStep s a imm b)
    exact ⟨t, stepped, stores.rest.pc, fetchSees_of_stepStores stores⟩

end Sys2Proof.Proofs

/-! PROOFS. The statements about the sequencer (40_sequencer.md) and the fatal decode (60_exceptions.md): when a step is
taken, and what any step does to the counter, the latch, the halt flag and OUT. -/

namespace Sys2Proof.Proofs

open Sys2Proof Sys2Proof.Machine Sys2Proof.Laws

/-! ### The step boundary -/

theorem canStep_eq_false_of_ceiling_le {s : State} (ceiling : s.params.ceiling ≤ s.ctr) : s.canStep = false := by
  simp [State.canStep, Nat.not_lt.mpr ceiling]

/-- Settles O36: the two answers of a machine that takes no step. -/
theorem stoppedMachineAnswers : Obligations.StoppedMachineAnswers := by
  intro s
  refine ⟨fun r => step_of_latched, fun unlatched stopped => step_of_stopped unlatched ?_⟩
  rcases stopped with halted | ceiling
  · simp [State.canStep, halted]
  · exact canStep_eq_false_of_ceiling_le ceiling

/-- Without a latched fatal decode every state has a next one. -/
theorem step_next_of_unlatched {s : State} (unlatched : s.fatal = none) : ∃ t, step s = .next t := by
  cases allowed : s.canStep with
  | false => exact ⟨s, step_of_stopped unlatched allowed⟩
  | true =>
    match decoded : s.fetchDecode with
    | .ok i =>
      obtain ⟨u, executed⟩ := exec_next i s.beginStep
      exact ⟨_, step_of_decode allowed decoded executed⟩
    | .error (.illegalOpcode _) => exact ⟨_, step_of_illegal allowed decoded⟩

/-- Settles O42: with a latched fatal decode the step answers a fault, and without one a state. -/
theorem everyUnfaultedStateSteps : Obligations.EveryUnfaultedStateSteps := by
  refine ⟨fun s => step_next_of_unlatched, fun s r refused => ?contradiction⟩
  match latch : s.fatal with
  | some _ => exact nomatch (step_of_latched latch).symm.trans refused
  | none =>
    obtain ⟨t, stepped⟩ := step_next_of_unlatched latch
    exact nomatch stepped.symm.trans refused

/-- Settles O40: lines 1 and 3 count once, and neither a meaning nor the service nor the fatal decode touches the
counter. -/
theorem counterCountsInstructions : Obligations.CounterCountsInstructions := by
  intro s t stepped
  rcases step_cases stepped with ⟨_, stopped, rfl⟩ | ⟨i, u, allowed, _, executed, rfl⟩ | ⟨op, allowed, _, rfl⟩
  · simp [stopped]
  · rw [if_pos allowed, trapService_ctr, (execFrame_of_exec executed).ctr, beginStep_ctr]
  · rw [if_pos allowed, raiseFatalDecode_ctr, beginStep_ctr]

/-- Settles O35: a machine that may step has no fatal decode, so it answers a state, which its counter tells from the
one it was given; a machine that may not answers that one or a fault. -/
theorem stepIsTakenExactlyWhenAllowed : Obligations.StepIsTakenExactlyWhenAllowed := by
  intro s
  rw [← canStep_iff]
  refine ⟨⟨fun ⟨t, stepped, counted⟩ => ?only, fun allowed => ?taken⟩, fun stopped t stepped => ?same⟩
  case only =>
    by_contra stopped
    have kept := counterCountsInstructions s t stepped
    rw [if_neg stopped] at kept
    omega
  case taken =>
    obtain ⟨t, stepped⟩ := step_next_of_unlatched ((canStep_iff s).mp allowed).2.1
    have counted := counterCountsInstructions s t stepped
    rw [if_pos allowed] at counted
    exact ⟨t, stepped, counted⟩
  case same =>
    rcases step_cases stepped with ⟨_, _, same⟩ | ⟨_, _, allowed, _⟩ | ⟨_, allowed, _⟩
    · exact same
    · exact absurd allowed stopped
    · exact absurd allowed stopped

/-! ### The outcomes -/

theorem stopOutcome_of_latched {s : State} (latched : s.fatal.isSome = true) :
    s.stopOutcome = some .fatalStop := if_pos latched

/-- There is no outcome exactly where a step is taken (R74). -/
theorem stopOutcome_eq_none_iff (s : State) : s.stopOutcome = none ↔ s.canStep = true := by
  rw [canStep_iff]
  match latch : s.fatal with
  | some _ => simp [State.stopOutcome, latch]
  | none => cases running : s.halt <;> simp [State.stopOutcome, latch, running]

/-- Settles O43: the definition decides by the latch, then the halt flag, then the counter; the invariant excludes that
both the latch and the halt flag are set. -/
theorem stopOutcomesAreExclusive : Obligations.StopOutcomesAreExclusive := by
  intro s
  refine ⟨stopOutcome_eq_none_iff s, fun inv => ?conditions⟩
  match latch : s.fatal with
  | some _ =>
    have running : s.halt = false := by
      by_contra halted
      exact nomatch latch.symm.trans (inv.oneStop (eq_true_of_ne_false halted))
    simp [State.stopOutcome, latch, running]
  | none => cases running : s.halt <;> simp [State.stopOutcome, latch, running]

/-! ### The fatal decode -/

/-- A step onto an opcode from 0x14 up fetches its rejection (R58). -/
theorem fetchDecode_of_le_opcode {s : State} (illegal : 0x14 ≤ (opcodeField (s.memRead s.pc)).toNat) :
    s.fetchDecode = .error (.illegalOpcode (opcodeField (s.memRead s.pc))) :=
  decode_eq_error_of_le_opcode _ illegal

/-- Nothing else is rejected: the opcode is the one of the word at the pc, and illegal. -/
theorem le_opcode_of_fetchDecode {s : State} {op : BitVec 7} (rejected : s.fetchDecode = .error (.illegalOpcode op)) :
    op = opcodeField (s.memRead s.pc) ∧ 0x14 ≤ op.toNat := by
  have illegal : 0x14 ≤ (opcodeField (s.memRead s.pc)).toNat := by
    by_contra legal
    obtain ⟨i, decoded⟩ := decode_eq_ok_of_opcode_lt (s.memRead (s.pc + 1#16)) (Nat.not_le.mp legal)
    exact nomatch decoded.symm.trans rejected
  have op_eq : op = opcodeField (s.memRead s.pc) := by
    cases rejected.symm.trans (fetchDecode_of_le_opcode illegal)
    rfl
  exact ⟨op_eq, op_eq ▸ illegal⟩

/-- A step that answers a state has found the latch empty, and leaves it so unless it was taken on an illegal opcode,
which does not halt the machine (R160). -/
theorem step_fatal_cases {s t : State} (stepped : step s = .next t) :
    (s.fatal = none ∧ t.fatal = none)
    ∨ (s.canStep = true ∧ 0x14 ≤ (opcodeField (s.memRead s.pc)).toNat
        ∧ t.fatal = some { opcode := opcodeField (s.memRead s.pc), completed := s.ctr } ∧ t.halt = false) := by
  rcases step_cases stepped with ⟨unlatched, _, rfl⟩ | ⟨i, u, allowed, _, executed, rfl⟩ | ⟨op, allowed, rejected, rfl⟩
  · exact .inl ⟨unlatched, unlatched⟩
  · have unlatched : s.fatal = none := ((canStep_iff s).mp allowed).2.1
    refine .inl ⟨unlatched, ?_⟩
    rw [trapService_fatal, (execFrame_of_exec executed).fatal, beginStep_fatal, unlatched]
  · obtain ⟨rfl, illegal⟩ := le_opcode_of_fetchDecode rejected
    exact .inr ⟨allowed, illegal, rfl, ((canStep_iff s).mp allowed).1⟩

/-- Settles O37: the record is that of the opcode field and of the counter before the step; any other step that answers
a state leaves the latch empty. -/
theorem fatalDecodeLatchesTheRecord : Obligations.FatalDecodeLatchesTheRecord := by
  refine ⟨fun s op a b d allowed word illegal => ?raised, fun s t stepped changed => ?only⟩
  case raised =>
    have op_eq : opcodeField (s.memRead s.pc) = op := by rw [word, opcodeField_packWord]
    have stepped := step_of_illegal allowed (fetchDecode_of_le_opcode (op_eq ▸ illegal))
    exact ⟨_, stepped, by rw [raiseFatalDecode_fatal, op_eq], stopOutcome_of_latched rfl⟩
  case only =>
    rcases step_fatal_cases stepped with ⟨before, after⟩ | ⟨allowed, illegal, _⟩
    · exact absurd (after.trans before.symm) changed
    · exact ⟨allowed, illegal⟩

/-- Settles O38: the state of the fatal step is the given one with the counter, the pc and the latch written. -/
theorem fatalDecodeLeavesTheRestAlone : Obligations.FatalDecodeLeavesTheRestAlone := by
  intro s allowed illegal
  have running : s.halt = false := ((canStep_iff s).mp allowed).1
  exact ⟨_, step_of_illegal allowed (fetchDecode_of_le_opcode illegal), fun _ _ => rfl, fun _ => rfl, running, rfl, rfl,
    rfl, rfl⟩

/-! ### The halt flag -/

/-- Among the meanings, that of halt sets the halt flag and no other touches it (R14). -/
theorem exec_halt_iff {i : Instr} {s t : State} (executed : exec i s = .next t) :
    t.halt = true ↔ s.halt = true ∨ i = .halt := by
  obtain ⟨_, frame⟩ := execWritesOnlyItsDestination i s t executed
  cases i with
  | halt =>
    cases executed
    simp [(execJumps_setHalt_finish s).halt]
  | _ => simp [frame]

/-- Settles O39: a step that is taken on a defined opcode runs its meaning, which is halt's exactly for opcode 0; a
fatal decode does not touch the flag. -/
theorem haltFlagOnlyFromHalt : Obligations.HaltFlagOnlyFromHalt := by
  intro s t stepped
  rcases step_cases stepped with ⟨_, stopped, rfl⟩ | ⟨i, u, allowed, decoded, executed, rfl⟩
    | ⟨op, allowed, rejected, rfl⟩
  · simp [stopped]
  · have is_halt : i = .halt ↔ (opcodeField (s.memRead s.pc)).toNat = 0 := by
      rw [← decode_eq_halt_iff (s.memRead s.pc) (s.memRead (s.pc + 1#16))]
      exact ⟨fun eq => eq ▸ decoded, fun halted => Except.ok.inj (decoded.symm.trans halted)⟩
    rw [trapService_halt, exec_halt_iff executed, beginStep_halt, is_halt]
    simp [allowed]
  · obtain ⟨rfl, illegal⟩ := le_opcode_of_fetchDecode rejected
    have not_zero : (opcodeField (s.memRead s.pc)).toNat ≠ 0 := by omega
    rw [raiseFatalDecode_halt, beginStep_halt]
    exact (or_iff_left fun ⟨_, zero⟩ => not_zero zero).symm

/-! ### OUT and the parameters -/

/-- Every code of a scan is non-zero and valid (R143). -/
theorem of_mem_scanString {m : Memory} {p : Params} {fuel a : Nat} {c : Word} (emitted : c ∈ scanString m p fuel a) :
    c ≠ 0#16 ∧ validCodePoint p c = true := by
  obtain ⟨k, at_k⟩ := List.mem_iff_getElem?.mp emitted
  obtain ⟨_, _, nonZero, valid⟩ := of_scanString_getElem? m p at_k
  exact ⟨nonZero, valid⟩

/-- A scan emits at most one code for each cell it may read. -/
theorem length_scanString_le (m : Memory) (p : Params) (fuel a : Nat) : (scanString m p fuel a).length ≤ fuel := by
  by_contra longer
  obtain ⟨in_fuel, _⟩ := of_scanString_getElem? m p (List.getElem?_eq_getElem (Nat.not_le.mp longer))
  exact Nat.lt_irrefl fuel in_fuel

/-- The service emits one print or nothing (R141). -/
theorem servedOutput_cases (s : State) : s.servedOutput = [] ∨ s.servedOutput = printString s.mem s.params := by
  unfold State.servedOutput serviceOutput
  split
  case isTrue => exact .inl rfl
  case isFalse =>
    split
    case isTrue => exact .inr rfl
    case isFalse => exact .inl rfl

/-- So what it emits is no longer than the payload, and made of codes that a print may emit. -/
theorem servedOutput_codes (s : State) : s.servedOutput.length ≤ s.params.memWords - s.params.payloadBase
    ∧ ∀ c ∈ s.servedOutput, c ≠ 0#16 ∧ validCodePoint s.params c = true := by
  rcases servedOutput_cases s with nothing | print
  · simp [nothing]
  · rw [print]
    exact ⟨length_scanString_le .., fun _ => of_mem_scanString⟩

/-- No step changes the run's parameters (R17). -/
theorem step_params {s t : State} (stepped : step s = .next t) : t.params = s.params := by
  rcases step_cases stepped with ⟨_, _, rfl⟩ | ⟨i, u, _, _, executed, rfl⟩ | ⟨op, _, _, rfl⟩
  · rfl
  · rw [trapService_params, (execFrame_of_exec executed).params, beginStep_params]
  · rfl

/-- Settles O41: of all that a step does the service alone writes OUT, and it appends what it emits. -/
theorem outputIsAppendOnly : Obligations.OutputIsAppendOnly := by
  intro s t stepped
  refine ⟨step_params stepped, ?_⟩
  rcases step_cases stepped with ⟨_, _, rfl⟩ | ⟨i, u, _, _, executed, rfl⟩ | ⟨op, _, _, rfl⟩
  · exact ⟨[], by simp⟩
  · obtain ⟨_, _, out_eq, params_eq⟩ := execFrame_of_exec executed
    rw [beginStep_params] at params_eq
    refine ⟨u.servedOutput, by rw [trapService_out, out_eq, beginStep_out], ?_⟩
    rw [← params_eq]
    exact servedOutput_codes u
  · exact ⟨[], by simp⟩

end Sys2Proof.Proofs

/-! PROOFS. The statements about whole runs: every step keeps the invariant of the machine, every run ends within the
ceiling (40_sequencer.md section 4), and bit 15 of the pc selects nothing (90_conflicts.md C4). -/

namespace Sys2Proof.Proofs

open Sys2Proof Sys2Proof.Machine Sys2Proof.Laws

/-! ### The invariant -/

/-- A meaning leaves the memory as it was or makes one write through an address. -/
theorem exec_mem_cases {i : Instr} {s t : State} (executed : exec i s = .next t) :
    t.mem = s.mem ∨ ∃ addr v, t.mem = (s.memWrite addr v).mem := by
  cases i with
  | stio a imm b =>
    cases executed
    exact .inr ⟨s.eaOffset a imm, s.reg b, by rw [finish_eq]⟩
  | st a b =>
    cases executed
    exact .inr ⟨s.eaIndirect a, s.reg b, by rw [finish_eq]⟩
  | jnz a imm =>
    rcases exec_jnz_cases executed with ⟨_, rfl⟩ | ⟨_, rfl⟩
    · exact .inl rfl
    · exact .inl rfl
  | _ =>
    cases executed
    exact .inl rfl

/-- So it keeps the canonical form of the memory. -/
theorem exec_wf {i : Instr} {s t : State} (size_pos : 0 < s.params.memWords)
    (wf : s.mem.wf s.params.memWords = true) (executed : exec i s = .next t) :
    t.mem.wf s.params.memWords = true := by
  rcases exec_mem_cases executed with kept | ⟨addr, v, written⟩
  · rw [kept]
    exact wf
  · rw [written]
    exact memWrite_wf addr v size_pos wf

/-- Every step keeps the canonical form: the meaning, then the service. -/
theorem step_wf {s t : State} (size_pos : 0 < s.params.memWords) (wf : s.mem.wf s.params.memWords = true)
    (stepped : step s = .next t) : t.mem.wf s.params.memWords = true := by
  rcases step_cases stepped with ⟨_, _, rfl⟩ | ⟨i, u, _, _, executed, rfl⟩ | ⟨op, _, _, rfl⟩
  · exact wf
  · have params_eq : u.params = s.params := (execFrame_of_exec executed).params
    rw [← params_eq] at size_pos ⊢
    exact trapService_wf size_pos (params_eq ▸ exec_wf (s := s.beginStep) (params_eq ▸ size_pos) wf executed)
  · exact wf

/-- A counter within the ceiling stays there: below it one more is still within it, and at it none is taken (R73). -/
theorem step_ctr_le_ceiling {s t : State} (within : s.ctr ≤ s.params.ceiling) (stepped : step s = .next t) :
    t.ctr ≤ t.params.ceiling := by
  rw [step_params stepped, counterCountsInstructions s t stepped]
  split
  case isTrue allowed =>
    obtain ⟨_, _, below⟩ := (canStep_iff s).mp allowed
    exact below
  case isFalse => exact within

/-- An opcode from 0x14 up is illegal for parameters that fit the model (R58, log 11). -/
theorem legalOpcode_eq_false {p : Params} {op : BitVec 7} (fits : p.fits = true) (illegal : 0x14 ≤ op.toNat) :
    legalOpcode p op = false := by
  obtain ⟨_, _, _, opcodes, _⟩ := (fits_iff p).mp fits
  simp [legalOpcode, opcodes, illegal]

/-- Settles O51: each clause from the law of the step about its field; the latch, where the step wrote it, holds the
illegal opcode of a machine that is not halted. -/
theorem everyStepKeepsTheInvariant : Obligations.EveryStepKeepsTheInvariant := by
  intro s t inv stepped
  obtain ⟨params_eq, codes, out_eq, _, codes_valid⟩ := outputIsAppendOnly s t stepped
  obtain ⟨_, _, _, _, size_pos⟩ := (fits_iff s.params).mp inv.params
  have latch := step_fatal_cases stepped
  refine ⟨?params, ?memory, step_ctr_le_ceiling inv.counter stepped, fun halted => ?oneStop, fun r record => ?latched,
    fun c emitted => ?output⟩
  case params => rw [params_eq, inv.params]
  case memory => rw [params_eq, step_wf size_pos inv.memory stepped]
  case oneStop =>
    rcases latch with ⟨_, unlatched⟩ | ⟨_, _, _, running⟩
    · exact unlatched
    · exact absurd halted (by simp [running])
  case latched =>
    rcases latch with ⟨_, unlatched⟩ | ⟨_, illegal, raised, _⟩
    · exact nomatch unlatched.symm.trans record
    · cases raised.symm.trans record
      rw [params_eq]
      exact legalOpcode_eq_false inv.params illegal
  case output =>
    rw [out_eq, List.mem_append] at emitted
    rw [params_eq]
    exact emitted.elim (inv.output c) (codes_valid c)

/-! ### The ceiling -/

/-- A run whose first step answers a fault answers that fault. -/
theorem run_succ_fault {s : State} {r : Fault} (k : Nat) (faulted : step s = .fault r) :
    Sys2Proof.core.run (k + 1) s = .fault r := by
  have core_faulted : Sys2Proof.core.step s = .fault r := faulted
  have run_eq := Host.Core.run.eq_2 Sys2Proof.core s k
  rw [core_faulted] at run_eq
  exact run_eq

/-- A machine that is stopped without a fatal decode stands still, however many steps are asked for (log 5). -/
theorem run_of_stopped {s : State} (unlatched : s.fatal = none) (stopped : s.canStep = false) :
    ∀ k, Sys2Proof.core.run k s = .next s
  | 0 => rfl
  | k + 1 => (run_succ_next (step_of_stopped unlatched stopped)).trans (run_of_stopped unlatched stopped k)

/-- A run adds at most 1 to the counter for each of its steps. -/
theorem run_ctr_le_add : ∀ (k : Nat) {s t : State}, Sys2Proof.core.run k s = .next t → t.ctr ≤ s.ctr + k
  | 0, _, _, ran => by rw [run_zero ran, Nat.add_zero]
  | k + 1, s, t, ran => by
    obtain ⟨s', stepped, rest⟩ := run_succ ran
    have counted : s'.ctr ≤ s.ctr + 1 := by
      rw [counterCountsInstructions s s' stepped]
      split <;> omega
    have rest_counted := run_ctr_le_add k rest
    omega

/-- A run takes a counter that is within the ceiling nowhere beyond it, and the ceiling stays what it was. -/
theorem run_ctr_le_ceiling {k : Nat} {s t : State} (ran : Sys2Proof.core.run k s = .next t)
    (within : s.ctr ≤ s.params.ceiling) : t.ctr ≤ s.params.ceiling := by
  have kept : t.params = s.params ∧ t.ctr ≤ t.params.ceiling :=
    run_keeps (P := fun u => u.params = s.params ∧ u.ctr ≤ u.params.ceiling)
      (fun _ _ ⟨params_eq, within⟩ stepped =>
        ⟨(step_params stepped).trans params_eq, step_ctr_le_ceiling within stepped⟩) k ⟨rfl, within⟩ ran
  rw [← kept.1]
  exact kept.2

/-- No run is refused: a step answers a state or a fault (R195c). -/
theorem run_ne_refused : ∀ (k : Nat) (s : State) (r : Refusal), Sys2Proof.core.run k s ≠ .refused r
  | 0, _, _ => nofun
  | k + 1, s, r => by
    cases stepped : step s with
    | next s' =>
      rw [run_succ_next stepped]
      exact run_ne_refused k s' r
    | fault f =>
      rw [run_succ_fault k stepped]
      nofun
    | refused r' => exact absurd stepped (everyUnfaultedStateSteps.2 s r')

/-- The two ways a run of `k` steps from `s` can have ended: at a stopped machine, or in the fault of a fatal stop that
it has passed. -/
def RunEnded (k : Nat) (s : State) : Prop :=
  (∃ t, Sys2Proof.core.run k s = .next t ∧ t.canStep = false ∧ t.stopOutcome ≠ none)
  ∨ ∃ j t r, j < k ∧ Sys2Proof.core.run j s = .next t ∧ t.fatal = some r ∧ t.stopOutcome = some .fatalStop
      ∧ Sys2Proof.core.run k s = .fault (.fatalDecode r.opcode r.completed)

/-- A run that stands at a stopped machine has ended with one of the outcomes. -/
theorem runEnded_of_stopped {k : Nat} {s t : State} (ran : Sys2Proof.core.run k s = .next t)
    (stopped : t.canStep = false) : RunEnded k s := by
  refine .inl ⟨t, ran, stopped, fun running => ?_⟩
  exact absurd ((stopOutcome_eq_none_iff t).mp running) (by simp [stopped])

/-- A run from a fatal stop has ended: no step leaves it. -/
theorem runEnded_of_latched {s : State} {r : FatalRecord} (latch : s.fatal = some r) : ∀ k, RunEnded k s
  | 0 => runEnded_of_stopped (t := s) rfl (by simp [State.canStep, latch])
  | k + 1 => .inr ⟨0, s, r, Nat.succ_pos k, rfl, latch, stopOutcome_of_latched (by simp [latch]),
      run_succ_fault k (step_of_latched latch)⟩

/-- A run that has ended after its first step has ended. -/
theorem runEnded_succ {k : Nat} {s s' : State} (stepped : step s = .next s') (ended : RunEnded k s') :
    RunEnded (k + 1) s := by
  rw [RunEnded, run_succ_next stepped]
  refine ended.imp_right fun ⟨j, t, r, earlier, ran, fatal_stop⟩ => ?_
  exact ⟨j + 1, t, r, Nat.succ_lt_succ earlier, (run_succ_next stepped).trans ran, fatal_stop⟩

/-- A run of at least as many steps as the counter is below the ceiling has ended: each step that is taken brings the
counter one closer, and a machine that takes none has stopped. -/
theorem runEnded_of_ceiling_le : ∀ (k : Nat) (s : State), s.params.ceiling ≤ s.ctr + k → RunEnded k s
  | 0, s, ceiling => runEnded_of_stopped (t := s) rfl (canStep_eq_false_of_ceiling_le ceiling)
  | k + 1, s, ceiling => by
    match latch : s.fatal with
    | some r => exact runEnded_of_latched latch (k + 1)
    | none =>
      cases allowed : s.canStep with
      | false => exact runEnded_of_stopped (run_of_stopped latch allowed (k + 1)) allowed
      | true =>
        obtain ⟨s', stepped⟩ := step_next_of_unlatched latch
        have counted : s'.ctr = s.ctr + 1 := by
          rw [counterCountsInstructions s s' stepped, if_pos allowed]
        have closer : s'.params.ceiling ≤ s'.ctr + k := by
          rw [step_params stepped, counted]
          omega
        exact runEnded_succ stepped (runEnded_of_ceiling_le k s' closer)

/-- Settles O52: by induction on the number of steps, for each of the clauses. -/
theorem everyRunEndsWithinTheCeiling : Obligations.EveryRunEndsWithinTheCeiling := fun s k =>
  ⟨runEnded_of_ceiling_le k s, fun _ ran within => ⟨run_ctr_le_ceiling ran within, run_ctr_le_add k ran⟩,
    run_ne_refused k s⟩

/-! ### Bit 15 of the pc: two machines that agree but for the pc, which selects the same cell in both -/

/-- `s'` is `s` but for the pc, which selects the same cell. -/
def PcAlias (s s' : State) : Prop := ∃ p, s' = s.setPc p ∧ cellOf s.params p = cellOf s.params s.pc

theorem pcAlias_refl (s : State) : PcAlias s s := ⟨s.pc, rfl, rfl⟩

/-- Line 5 moves both pcs or neither, and a common offset keeps them on one cell. -/
theorem pcAlias_finish {e e' : State} (size : e.params.memWords ∣ 65536) (words : Nat) (wrotePc : Bool)
    (same : PcAlias e e') : PcAlias (e.finish words wrotePc) (e'.finish words wrotePc) := by
  obtain ⟨p, rfl, cell⟩ := same
  rw [finish_eq_setPc, finish_eq_setPc]
  split
  case isTrue => exact ⟨p + 1#16, rfl, cellOf_add_congr size cell 1#16⟩
  case isFalse => exact ⟨p, rfl, cell⟩

/-- No meaning but a jump's looks at the pc or writes it before line 5, and a jump writes the same target in both. -/
theorem exec_pcAlias {i : Instr} {s s' t : State} (size : s.params.memWords ∣ 65536) (same : PcAlias s s')
    (executed : exec i s = .next t) : ∃ t', exec i s' = .next t' ∧ PcAlias t t' := by
  obtain ⟨p, rfl, cell⟩ := same
  cases i with
  | j a =>
    cases executed
    exact ⟨_, rfl, pcAlias_refl _⟩
  | jimm imm =>
    cases executed
    exact ⟨_, rfl, pcAlias_refl _⟩
  | jnz a imm =>
    rcases exec_jnz_cases executed with ⟨nonZero, rfl⟩ | ⟨zero, rfl⟩
    · exact ⟨_, exec_jnz_of_ne_zero (s := s.setPc p) imm nonZero, pcAlias_refl _⟩
    · exact ⟨_, exec_jnz_of_eq_zero (s := s.setPc p) imm zero, pcAlias_finish size 2 false ⟨p, rfl, cell⟩⟩
  | _ =>
    cases executed
    refine ⟨_, rfl, pcAlias_finish ?_ _ false ⟨p, rfl, cell⟩⟩
    exact size

/-- Both machines fetch the same two words. -/
theorem fetchDecode_setPc {s : State} {p : Word} (size : s.params.memWords ∣ 65536)
    (cell : cellOf s.params p = cellOf s.params s.pc) : (s.setPc p).fetchDecode = s.fetchDecode := by
  have word : (s.setPc p).fetchWord = s.fetchWord := congrArg s.mem.read cell
  have imm : (s.setPc p).fetchImm = s.fetchImm := congrArg s.mem.read (cellOf_add_congr size cell 1#16)
  rw [State.fetchDecode, State.fetchDecode, word, imm]

/-- A step of the one is matched by a step of the other. -/
theorem step_pcAlias {s s' t : State} (size : s.params.memWords ∣ 65536) (same : PcAlias s s')
    (stepped : step s = .next t) : ∃ t', step s' = .next t' ∧ PcAlias t t' := by
  obtain ⟨p, rfl, cell⟩ := same
  have begun : PcAlias s.beginStep (s.setPc p).beginStep := ⟨p + 1#16, rfl, cellOf_add_congr size cell 1#16⟩
  have fetched := fetchDecode_setPc size cell
  rcases step_cases stepped with ⟨unlatched, stopped, rfl⟩ | ⟨i, u, allowed, decoded, executed, rfl⟩
    | ⟨op, allowed, rejected, rfl⟩
  · exact ⟨_, step_of_stopped (s := t.setPc p) unlatched stopped, p, rfl, cell⟩
  · obtain ⟨_, executed', q, rfl, cell'⟩ := exec_pcAlias (s := s.beginStep) size begun executed
    refine ⟨_, step_of_decode (s := s.setPc p) allowed (fetched.trans decoded) executed', q, trapService_setPc u q, ?_⟩
    rw [trapService_params, trapService_pc, cell']
  · exact ⟨_, step_of_illegal (s := s.setPc p) allowed (fetched.trans rejected), p + 1#16, rfl,
      cellOf_add_congr size cell 1#16⟩

/-- So a run of the one is matched by a run of the other. -/
theorem run_pcAlias : ∀ (k : Nat) {s s' t : State}, s.params.memWords ∣ 65536 → PcAlias s s' →
    Sys2Proof.core.run k s = .next t → ∃ t', Sys2Proof.core.run k s' = .next t' ∧ PcAlias t t'
  | 0, _, s', _, _, same, ran => ⟨s', rfl, run_zero ran ▸ same⟩
  | k + 1, s, _, _, size, same, ran => by
    obtain ⟨u, stepped, rest⟩ := run_succ ran
    obtain ⟨u', stepped', same'⟩ := step_pcAlias size same stepped
    rw [run_succ_next stepped']
    exact run_pcAlias k ((step_params stepped).symm ▸ size) same' rest

/-- Bit 15 of an address selects nothing where `MEM_WORDS` divides 2^15 (R12). -/
theorem cellOf_add_bit15 {p : Params} (size : p.memWords ∣ 32768) (a : Word) :
    cellOf p (a + 32768#16) = cellOf p a :=
  calc cellOf p (a + 32768#16)
    _ = (a.toNat + 32768) % p.memWords := cellOf_add (size.trans (by decide)) a 32768#16
    _ = a.toNat % p.memWords := Nat.add_modEq_left_iff.mpr size

/-- Settles O53: the two machines at the start differ in bit 15 of the pc alone, and a run keeps them apart in a pc of
the same cell alone. -/
theorem runsIgnoreBit15OfThePc : Obligations.RunsIgnoreBit15OfThePc := by
  intro s t k size ran
  have flipped : PcAlias s (s.setPc (s.pc + 32768#16)) := ⟨_, rfl, cellOf_add_bit15 size s.pc⟩
  obtain ⟨_, ran', p, rfl, cell⟩ := run_pcAlias k (size.trans (by decide)) flipped ran
  exact ⟨p, ran', cell⟩

end Sys2Proof.Proofs
